-- ==== Sys2Proof/Word.lean ====
section
/-!
DEFINITION. Word.lean: the word types of the block (spec/00_scope.md R13: `u8` and `u16`; every value is unsigned).
Byte sequences (R14) are `List Byte`, first byte at the head of the list.
-/
namespace Sys2Proof

/-- `u8` of R13. -/
abbrev Byte := BitVec 8

/-- `u16` of R13: the CRC accumulator and the two 16-bit frame fields. -/
abbrev U16 := BitVec 16

/-- The 32-bit header word `hdr` of R74: the first four bytes of a frame, first byte most significant. -/
abbrev Header := BitVec 32

end Sys2Proof
end

