-- ==== Sys2Proof/Config.lean ====
section
/-!
DEFINITION. Config.lean: the constants of R9 (spec/00_scope.md section 4), hardwired by R12, and the parameters of
R11: the open `RXBUF_CAP` (decision D3) and the switch `STRICT_TYPE` (decision D5).
`CRC_XOROUT = 0` of R9 has no name here, because R90 ends without any final XOR.
-/
namespace Sys2Proof

/-- `HEAD` (R9, R61). -/
@[simp] abbrev headByte : Byte := 0xAA

/-- `TAIL` (R9, R66). -/
@[simp] abbrev tailByte : Byte := 0x55

/-- `MAX_PAYLOAD` (R9, R63). -/
@[simp] abbrev maxPayload : Nat := 8

/-- `HEADER_LEN` (R9): the decoder's "need more data" threshold; 4, not 7 (R10, 90_conflicts.md C2). -/
@[simp] abbrev headerLen : Nat := 4

/-- `OVERHEAD` (R9): frame bytes that are not payload. -/
@[simp] abbrev overhead : Nat := 7

/-- `MIN_FRAME` (R9). -/
@[simp] abbrev minFrame : Nat := 7

/-- `MAX_FRAME` (R9). -/
@[simp] abbrev maxFrame : Nat := 15

/-- `CRC_INIT` (R9). -/
@[simp] abbrev crcStart : U16 := 0xFFFF

/-- `CRC_POLY_REFLECTED` (R9). -/
@[simp] abbrev crcPoly : U16 := 0xA001

/-- The two assigned frame types (R62). -/
inductive FrameType where
  | cmd
  | data
  deriving DecidableEq, Repr

/-- The type byte of a frame type: `TYPE_CMD`, `TYPE_DATA` (R9, R62). -/
def FrameType.code : FrameType → Byte
  | .cmd => 0x01
  | .data => 0x02

/-- The parameters of R11. `rxbufCap = none` is the unbounded buffer. -/
structure Config where
  /-- `RXBUF_CAP`: a natural number not less than 15, or unbounded (`none`, the default). -/
  rxbufCap : Option Nat
  /-- `STRICT_TYPE`: when true the decoder also rejects an unassigned type byte (D5); default false. -/
  strictType : Bool
  deriving DecidableEq, Repr

/-- The values R11 tells a model to use by default: unbounded, not strict. -/
def Config.default : Config := ⟨none, false⟩

/-- R11's bound on the parameter: `RXBUF_CAP ≥ MAX_FRAME = 15` (or unbounded). -/
def Config.wf (c : Config) : Bool :=
  match c.rxbufCap with
  | none => true
  | some n => decide (maxFrame ≤ n)

end Sys2Proof
end

