-- ==== Sys2Proof/Machine/Operands.lean ====
section
/-!
DEFINITION. Machine/Operands.lean: the operand forms of the block (R15, R67): the two 16-bit big-endian fields, the zero
extension of a byte, and the reads of a byte sequence by offset (R14).
-/
namespace Sys2Proof.Machine

/-- `be16(h, l) = 256*h + l` (R15, R40, R41). -/
def be16 (h l : Byte) : U16 := BitVec.ofNat 16 (256 * h.toNat + l.toNat)

/-- `hi8(v) = v[15:8]` (R15). -/
def hi8 (v : U16) : Byte := v.extractLsb' 8 8

/-- `lo8(v) = v[7:0]` (R15). -/
def lo8 (v : U16) : Byte := v.extractLsb' 0 8

/-- `zext_16(b)` (R15). -/
def zext16 (b : Byte) : U16 := b.setWidth 16

/-- A type byte that R62 assigns: `0x01` or `0x02`. -/
def assignedType (t : Byte) : Bool := t == FrameType.cmd.code || t == FrameType.data.code

/-- `b[i]` (R14), defined by the spec only for `i < len(b)`: every use of this total form stands behind a length test. -/
def byteAt (b : List Byte) (i : Nat) : Byte := b.getD i 0

/-- `b[i:j]` (R14), defined by the spec only for `i ≤ j ≤ len(b)`: every use stands behind a length test. -/
def slice (b : List Byte) (i j : Nat) : List Byte := (b.drop i).take (j - i)

/-- The four bytes of a header word `hdr = f[0]*2^24 + f[1]*2^16 + f[2]*2^8 + f[3]`, first byte most significant (R74). -/
def headerBytes (h : Header) : List Byte :=
  [h.extractLsb' 24 8, h.extractLsb' 16 8, h.extractLsb' 8 8, h.extractLsb' 0 8]

end Sys2Proof.Machine
end

