-- ==== Sys2Proof/Machine/Checksum.lean ====
section
/-!
DEFINITION. Machine/Checksum.lean: the pure checksum function (spec/40_crc16.md R90, R91). The register operations built
on it are in Machine/CrcUnit.lean. The label "CCITT" is not used: R2 makes R90 the algorithm.
-/
namespace Sys2Proof.Machine

/-- `crc_bit` (R91): the test is on the value before the shift, the XOR on the value after it. -/
def crcBit (acc : U16) : U16 :=
  if acc.getLsbD 0 then (acc >>> 1) ^^^ crcPoly else acc >>> 1

/-- `n` applications of `crc_bit`. -/
def crcBits : Nat → U16 → U16
  | 0, acc => acc
  | n + 1, acc => crcBits n (crcBit acc)

/-- `crc_update` (R91): XOR into the low 8 bits, then exactly eight bit steps. -/
def crcUpdate (acc : U16) (b : Byte) : U16 := crcBits 8 (acc ^^^ zext16 b)

/-- The running CRC over a byte sequence, offset 0 first (R42, R90). -/
def crcFrom (acc : U16) (data : List Byte) : U16 := data.foldl crcUpdate acc

/-- `crc16(data)` (R90): initial value `0xFFFF`, no final XOR, no reflection, no byte swap. -/
def crc16 (data : List Byte) : U16 := crcFrom crcStart data

end Sys2Proof.Machine
end

