-- ==== Sys2Proof/Syntax.lean ====
section
/-!
DEFINITION. Syntax.lean: the one inductive of instructions. Its 28 constructors are the 28 rows of
spec/opcode_table.json: the 18 kinds of well-typed frame (R74), each with its payload bytes as operands, and the ten
operations (R76), which the spec tells a model to represent as constructors and not as bits.
-/
namespace Sys2Proof

/-- One constructor per row of spec/opcode_table.json. `frameCmdL<n>`, `frameDataL<n>`: a frame of type CMD or DATA with
`n` payload bytes, given in order (R74). The others are the operations of R76 and R77 with their operands. -/
inductive Instr where
  | frameCmdL0
  | frameCmdL1 (p0 : Byte)
  | frameCmdL2 (p0 p1 : Byte)
  | frameCmdL3 (p0 p1 p2 : Byte)
  | frameCmdL4 (p0 p1 p2 p3 : Byte)
  | frameCmdL5 (p0 p1 p2 p3 p4 : Byte)
  | frameCmdL6 (p0 p1 p2 p3 p4 p5 : Byte)
  | frameCmdL7 (p0 p1 p2 p3 p4 p5 p6 : Byte)
  | frameCmdL8 (p0 p1 p2 p3 p4 p5 p6 p7 : Byte)
  | frameDataL0
  | frameDataL1 (p0 : Byte)
  | frameDataL2 (p0 p1 : Byte)
  | frameDataL3 (p0 p1 p2 : Byte)
  | frameDataL4 (p0 p1 p2 p3 : Byte)
  | frameDataL5 (p0 p1 p2 p3 p4 : Byte)
  | frameDataL6 (p0 p1 p2 p3 p4 p5 : Byte)
  | frameDataL7 (p0 p1 p2 p3 p4 p5 p6 : Byte)
  | frameDataL8 (p0 p1 p2 p3 p4 p5 p6 p7 : Byte)
  | crc16 (data : List Byte)
  | crcInit
  | crcByte (b : Byte)
  | crcRead
  | encode (type : Byte) (payload : List Byte)
  | decode (buf : List Byte)
  | rxPush (v : List Byte)
  | rxStep
  | rxDrain
  | reset
  deriving DecidableEq, Repr

/-- The written names of R18, R74 and R77 (the table's mnemonics). -/
def Instr.mnemonic : Instr → String
  | .frameCmdL0 => "FRAME.CMD.L0"
  | .frameCmdL1 _ => "FRAME.CMD.L1"
  | .frameCmdL2 _ _ => "FRAME.CMD.L2"
  | .frameCmdL3 _ _ _ => "FRAME.CMD.L3"
  | .frameCmdL4 _ _ _ _ => "FRAME.CMD.L4"
  | .frameCmdL5 _ _ _ _ _ => "FRAME.CMD.L5"
  | .frameCmdL6 _ _ _ _ _ _ => "FRAME.CMD.L6"
  | .frameCmdL7 _ _ _ _ _ _ _ => "FRAME.CMD.L7"
  | .frameCmdL8 _ _ _ _ _ _ _ _ => "FRAME.CMD.L8"
  | .frameDataL0 => "FRAME.DATA.L0"
  | .frameDataL1 _ => "FRAME.DATA.L1"
  | .frameDataL2 _ _ => "FRAME.DATA.L2"
  | .frameDataL3 _ _ _ => "FRAME.DATA.L3"
  | .frameDataL4 _ _ _ _ => "FRAME.DATA.L4"
  | .frameDataL5 _ _ _ _ _ => "FRAME.DATA.L5"
  | .frameDataL6 _ _ _ _ _ _ => "FRAME.DATA.L6"
  | .frameDataL7 _ _ _ _ _ _ _ => "FRAME.DATA.L7"
  | .frameDataL8 _ _ _ _ _ _ _ _ => "FRAME.DATA.L8"
  | .crc16 _ => "CRC16"
  | .crcInit => "CRC.INIT"
  | .crcByte _ => "CRC.BYTE"
  | .crcRead => "CRC.READ"
  | .encode _ _ => "ENCODE"
  | .decode _ => "DECODE"
  | .rxPush _ => "RX.PUSH"
  | .rxStep => "RX.STEP"
  | .rxDrain => "RX.DRAIN"
  | .reset => "RESET"

end Sys2Proof
end

