-- ==== Sys2Proof/WellFormed.lean ====
section
/-!
DEFINITION. WellFormed.lean: the checks on an instruction's operands alone. A frame kind carries exactly its payload
bytes, so every frame term is well formed (R74); `ENCODE` has the two operand conditions of its contract (R110, R111);
no other operation has a precondition on its operands (R187; the capacity condition of `RX.PUSH` depends on the state
and stands in Safety.lean).
-/
namespace Sys2Proof

/-- Operands within the operation's contract (R110, R111, R187). -/
def Instr.wf : Instr → Bool
  | .frameCmdL0 => true
  | .frameCmdL1 _ => true
  | .frameCmdL2 _ _ => true
  | .frameCmdL3 _ _ _ => true
  | .frameCmdL4 _ _ _ _ => true
  | .frameCmdL5 _ _ _ _ _ => true
  | .frameCmdL6 _ _ _ _ _ _ => true
  | .frameCmdL7 _ _ _ _ _ _ _ => true
  | .frameCmdL8 _ _ _ _ _ _ _ _ => true
  | .frameDataL0 => true
  | .frameDataL1 _ => true
  | .frameDataL2 _ _ => true
  | .frameDataL3 _ _ _ => true
  | .frameDataL4 _ _ _ _ => true
  | .frameDataL5 _ _ _ _ _ => true
  | .frameDataL6 _ _ _ _ _ _ => true
  | .frameDataL7 _ _ _ _ _ _ _ => true
  | .frameDataL8 _ _ _ _ _ _ _ _ => true
  | .crc16 _ => true
  | .crcInit => true
  | .crcByte _ => true
  | .crcRead => true
  | .encode t p => Machine.assignedType t && decide (p.length ≤ maxPayload)
  | .decode _ => true
  | .rxPush _ => true
  | .rxStep => true
  | .rxDrain => true
  | .reset => true

end Sys2Proof
end

