-- ==== Sys2Proof/Decode.lean ====
section
/-!
DEFINITION. Decode.lean: the table decoder of R74 ("match `hdr`, take the size, then check the `c` bits against `crc16`
of the `p` bits and the last byte against `0x55`") from bytes to the 18 frame kinds, and the encoder from the same table.
The ten operations have no binary encoding (R76): they encode to no bytes and no bytes decode to them.
The block's own scanning decoder (R120), which also drops garbage, is Machine/Decoder.lean.
-/
namespace Sys2Proof

/-- One frame row of spec/opcode_table.json: `match` over `hdr` (its mask is all ones), frame type, payload length. -/
structure FrameRow where
  hdr : Header
  type : FrameType
  len : Nat
  deriving DecidableEq, Repr

/-- The nine CMD rows (R74). -/
def cmdRows : List FrameRow :=
  [⟨0xAA010000, .cmd, 0⟩,
   ⟨0xAA010001, .cmd, 1⟩,
   ⟨0xAA010002, .cmd, 2⟩,
   ⟨0xAA010003, .cmd, 3⟩,
   ⟨0xAA010004, .cmd, 4⟩,
   ⟨0xAA010005, .cmd, 5⟩,
   ⟨0xAA010006, .cmd, 6⟩,
   ⟨0xAA010007, .cmd, 7⟩,
   ⟨0xAA010008, .cmd, 8⟩]

/-- The nine DATA rows (R74). -/
def dataRows : List FrameRow :=
  [⟨0xAA020000, .data, 0⟩,
   ⟨0xAA020001, .data, 1⟩,
   ⟨0xAA020002, .data, 2⟩,
   ⟨0xAA020003, .data, 3⟩,
   ⟨0xAA020004, .data, 4⟩,
   ⟨0xAA020005, .data, 5⟩,
   ⟨0xAA020006, .data, 6⟩,
   ⟨0xAA020007, .data, 7⟩,
   ⟨0xAA020008, .data, 8⟩]

/-- The 18 frame rows. -/
def frameTable : List FrameRow := cmdRows ++ dataRows

/-- The type and payload of a frame kind's frame; an operation is no frame (R74, R76). -/
def Instr.frame? : Instr → Option (FrameType × List Byte)
  | .frameCmdL0 => some (.cmd, [])
  | .frameCmdL1 p0 => some (.cmd, [p0])
  | .frameCmdL2 p0 p1 => some (.cmd, [p0, p1])
  | .frameCmdL3 p0 p1 p2 => some (.cmd, [p0, p1, p2])
  | .frameCmdL4 p0 p1 p2 p3 => some (.cmd, [p0, p1, p2, p3])
  | .frameCmdL5 p0 p1 p2 p3 p4 => some (.cmd, [p0, p1, p2, p3, p4])
  | .frameCmdL6 p0 p1 p2 p3 p4 p5 => some (.cmd, [p0, p1, p2, p3, p4, p5])
  | .frameCmdL7 p0 p1 p2 p3 p4 p5 p6 => some (.cmd, [p0, p1, p2, p3, p4, p5, p6])
  | .frameCmdL8 p0 p1 p2 p3 p4 p5 p6 p7 => some (.cmd, [p0, p1, p2, p3, p4, p5, p6, p7])
  | .frameDataL0 => some (.data, [])
  | .frameDataL1 p0 => some (.data, [p0])
  | .frameDataL2 p0 p1 => some (.data, [p0, p1])
  | .frameDataL3 p0 p1 p2 => some (.data, [p0, p1, p2])
  | .frameDataL4 p0 p1 p2 p3 => some (.data, [p0, p1, p2, p3])
  | .frameDataL5 p0 p1 p2 p3 p4 => some (.data, [p0, p1, p2, p3, p4])
  | .frameDataL6 p0 p1 p2 p3 p4 p5 => some (.data, [p0, p1, p2, p3, p4, p5])
  | .frameDataL7 p0 p1 p2 p3 p4 p5 p6 => some (.data, [p0, p1, p2, p3, p4, p5, p6])
  | .frameDataL8 p0 p1 p2 p3 p4 p5 p6 p7 => some (.data, [p0, p1, p2, p3, p4, p5, p6, p7])
  | .crc16 _ => none
  | .crcInit => none
  | .crcByte _ => none
  | .crcRead => none
  | .encode _ _ => none
  | .decode _ => none
  | .rxPush _ => none
  | .rxStep => none
  | .rxDrain => none
  | .reset => none

/-- The frame kind's instruction for a type and a payload, none when the payload is longer than 8 bytes (R74, R75). -/
def Instr.ofFrame : FrameType → List Byte → Option Instr
  | .cmd, [] => some .frameCmdL0
  | .cmd, [p0] => some (.frameCmdL1 p0)
  | .cmd, [p0, p1] => some (.frameCmdL2 p0 p1)
  | .cmd, [p0, p1, p2] => some (.frameCmdL3 p0 p1 p2)
  | .cmd, [p0, p1, p2, p3] => some (.frameCmdL4 p0 p1 p2 p3)
  | .cmd, [p0, p1, p2, p3, p4] => some (.frameCmdL5 p0 p1 p2 p3 p4)
  | .cmd, [p0, p1, p2, p3, p4, p5] => some (.frameCmdL6 p0 p1 p2 p3 p4 p5)
  | .cmd, [p0, p1, p2, p3, p4, p5, p6] => some (.frameCmdL7 p0 p1 p2 p3 p4 p5 p6)
  | .cmd, [p0, p1, p2, p3, p4, p5, p6, p7] => some (.frameCmdL8 p0 p1 p2 p3 p4 p5 p6 p7)
  | .data, [] => some .frameDataL0
  | .data, [p0] => some (.frameDataL1 p0)
  | .data, [p0, p1] => some (.frameDataL2 p0 p1)
  | .data, [p0, p1, p2] => some (.frameDataL3 p0 p1 p2)
  | .data, [p0, p1, p2, p3] => some (.frameDataL4 p0 p1 p2 p3)
  | .data, [p0, p1, p2, p3, p4] => some (.frameDataL5 p0 p1 p2 p3 p4)
  | .data, [p0, p1, p2, p3, p4, p5] => some (.frameDataL6 p0 p1 p2 p3 p4 p5)
  | .data, [p0, p1, p2, p3, p4, p5, p6] => some (.frameDataL7 p0 p1 p2 p3 p4 p5 p6)
  | .data, [p0, p1, p2, p3, p4, p5, p6, p7] => some (.frameDataL8 p0 p1 p2 p3 p4 p5 p6 p7)
  | .cmd, _ => none
  | .data, _ => none

/-- Why a byte sequence does not begin with a well-typed frame. -/
inductive DecodeError where
  /-- Fewer than 4 bytes: no header (R68). -/
  | shortHeader
  /-- The first byte is not `0xAA` (R61). -/
  | notHead
  /-- A length field above 8 (R71). -/
  | illegalLength
  /-- A type byte that R62 does not assign (R70): a valid frame may have it, a well-typed one may not. -/
  | unassignedType
  /-- Fewer than `7 + L` bytes (R68). -/
  | shortBody
  /-- The crc field differs from `crc16(payload)` (R73). -/
  | badCrc
  /-- The last byte is not `0x55` (R73). -/
  | badTail
  deriving DecidableEq, Repr

/-- The reason no table row matches a header. -/
def rejectHeader (b0 b2 b3 : Byte) : DecodeError :=
  if b0 ≠ headByte then .notHead
  else if (Machine.be16 b2 b3).toNat > maxPayload then .illegalLength
  else .unassignedType

/-- The check of what follows the header: `n` payload bytes, the crc field, the tail. Answers the instruction and the
bytes after the frame. -/
def decodeBody (type : FrameType) (n : Nat) (body : List Byte) : Except DecodeError (Instr × List Byte) :=
  match body.drop n with
  | ch :: cl :: tail :: rest =>
    if Machine.crc16 (body.take n) ≠ Machine.be16 ch cl then .error .badCrc
    else if tail ≠ tailByte then .error .badTail
    else
      match Instr.ofFrame type (body.take n) with
      | some i => .ok (i, rest)
      | none => .error .illegalLength
  | _ => .error .shortBody

/-- The row that selects a header, given as its four bytes: all 32 bits significant (R74). -/
def lookupRow (hdr : List Byte) : Option FrameRow := frameTable.find? (fun r => Machine.headerBytes r.hdr == hdr)

/-- The table decoder (R74): the well-typed frame at the front of a byte sequence and the bytes after it, or the reason
there is none. Total on every byte sequence. -/
def decodeFrame : List Byte → Except DecodeError (Instr × List Byte)
  | b0 :: b1 :: b2 :: b3 :: body =>
    match lookupRow [b0, b1, b2, b3] with
    | some r => decodeBody r.type r.len body
    | none => .error (rejectHeader b0 b2 b3)
  | _ => .error .shortHeader

/-- The `match` value of a frame kind (R74): `0xAA010000 + n` or `0xAA020000 + n`. -/
def kindHeader (type : FrameType) (n : Nat) : Header :=
  match type with
  | .cmd => 0xAA010000 + BitVec.ofNat 32 n
  | .data => 0xAA020000 + BitVec.ofNat 32 n

/-- The bytes of a frame of a kind, in wire order (R74): `hdr`, payload, `ch cl`, `55`. -/
def frameWords (type : FrameType) (payload : List Byte) : List Byte :=
  Machine.headerBytes (kindHeader type payload.length) ++ payload
    ++ [Machine.hi8 (Machine.crc16 payload), Machine.lo8 (Machine.crc16 payload), tailByte]

/-- The encoder: a frame kind's bytes (R74); an operation has a zero-width pattern (R76). -/
def encode (i : Instr) : List Byte :=
  match i.frame? with
  | some (type, payload) => frameWords type payload
  | none => []

/-- The bytes after a given header whose other bits are all zero in the host's word: payload bytes zero, and the two
fields the format computes or fixes (crc and tail), which no frame of the kind has as the host's zeros
(log entry 5). -/
def completeHeader (h : Header) : List Byte :=
  match lookupRow (Machine.headerBytes h) with
  | some r => frameWords r.type (List.replicate r.len 0)
  | none => Machine.headerBytes h ++ List.replicate 11 0

/-- A table word laid out in wire order. The table numbers bits over `hdr` (its first word, 32 bits, first byte most
significant); the bytes after it count on from bit 32, offset 4 in bits 39..32 (log entry 5). -/
def tableBytes (nbits w : Nat) : List Byte :=
  let v := w % 2 ^ nbits
  if v < 2 ^ 32 then completeHeader (BitVec.ofNat 32 v)
  else Machine.headerBytes (BitVec.ofNat 32 v)
    ++ (List.range 11).map (fun k => BitVec.ofNat 8 (v / 2 ^ (32 + 8 * k)))

/-- The instruction the decoder reads from a table word (the host's question). -/
def decodeTableWord (nbits w : Nat) : Option Instr :=
  match decodeFrame (tableBytes nbits w) with
  | .ok (i, _) => some i
  | .error _ => none

end Sys2Proof
end

