-- ==== Sys2Proof/Machine/State.lean ====
section
/-!
DEFINITION. Machine/State.lean: the state. The spec's own state is the pair `(CRC.ACC, rxbuf)` (spec/10_state.md R20);
the other three fields are the model's (log entries 1, 2, 3): what the environment has issued, what the last operation
presented, and the parameters of R11. There is no program counter, flag, mode, exception register or memory besides
`rxbuf` (R23 to R29).
-/
namespace Sys2Proof.Machine

/-- The decoder's result triple (R16). `payload = some []` differs from `none`. -/
structure DecodeResult where
  frameType : Option Byte
  payload : Option (List Byte)
  consumed : Nat
  deriving DecidableEq, Repr

/-- The value an operation presents at its output (R17, `return v`). -/
inductive Output where
  /-- The operation has no result (R77). -/
  | nothing
  /-- The `u16` of `CRC16` and `CRC.READ`. -/
  | word (v : U16)
  /-- The frame bytes of `ENCODE` (R115). -/
  | bytes (b : List Byte)
  /-- The triple of `DECODE`, `RX.STEP`, `RX.DRAIN` and of a delivered frame. -/
  | triple (r : DecodeResult)
  deriving DecidableEq, Repr

/-- What the environment may issue: the ten operations (R76, R231). Frame kinds are data on the wire, not requests. -/
inductive Request where
  | crc16 (data : List Byte)
  | crcInit
  | crcByte (b : Byte)
  | crcRead
  | encode (type : Byte) (payload : List Byte)
  | decode (buf : List Byte)
  | rxPush (v : List Byte)
  | rxStep
  | rxDrain
  | reset
  deriving DecidableEq, Repr

/-- The instruction a request issues. -/
def Request.instr : Request → Instr
  | .crc16 data => .crc16 data
  | .crcInit => .crcInit
  | .crcByte b => .crcByte b
  | .crcRead => .crcRead
  | .encode type payload => .encode type payload
  | .decode buf => .decode buf
  | .rxPush v => .rxPush v
  | .rxStep => .rxStep
  | .rxDrain => .rxDrain
  | .reset => .reset

/-- Why a step could stop with a fault: never (R180, R193: "there are no faults, no stuck states and no hangs inside
the block"), so the type has no constructor, and no one raises one. -/
inductive Fault where
  deriving DecidableEq, Repr

/-- Requests outside an operation's contract (R187): the spec gives them no meaning and tells a model to have no step
for them. Each is safe: nothing can be proved about a run that contains one. -/
inductive Refusal where
  /-- An arm of `exec` without a meaning; this model has none. Safe. -/
  | notModelled (mnemonic : String)
  /-- `ENCODE` with a type other than `0x01`, `0x02` (R111). Raised by `execEncode`; safe. -/
  | badType
  /-- `ENCODE` with more than 8 payload bytes (R110). Raised by `execEncode`; safe. -/
  | payloadTooLong
  /-- `RX.PUSH` beyond `RXBUF_CAP` (R130). Raised by `execRxPush`; safe. -/
  | rxOverflow
  deriving DecidableEq, Repr

/-- The state of one instance of the block. -/
structure State where
  /-- `CRC.ACC` (R21). -/
  crcAcc : U16
  /-- `rxbuf` (R22): offset 0, the oldest byte, is the head of the list. -/
  rxbuf : List Byte
  /-- The parameters of R11: fixed for an instance, written by no operation (log entry 3). -/
  cfg : Config
  /-- The operations the environment has issued and the block has not yet performed, oldest first (log entry 1). -/
  requests : List Request
  /-- The value the last operation presented (log entry 2). -/
  output : Output
  deriving DecidableEq, Repr

/-- The state after reset (R31, R211): `CRC.ACC = 0xFFFF`, `rxbuf = []`. The model's own fields: the default
parameters of R11, nothing issued, nothing presented (log entry 8). -/
def State.reset : State := ⟨crcStart, [], Config.default, [], .nothing⟩

end Sys2Proof.Machine
end

