-- ==== Sys2Proof/Machine/Flags.lean ====
section
/-!
DEFINITION. Machine/Flags.lean: the block has no flags (R25). The two predicates on the result triple that do the work
flags would do, and the stopping rule of `RX.DRAIN` made of them (R132).
-/
namespace Sys2Proof.Machine

/-- `got_frame = (frame_type ≠ none)` (R25). -/
def DecodeResult.gotFrame (r : DecodeResult) : Bool := r.frameType.isSome

/-- `need_more = (frame_type = none and consumed = 0)` (R25). -/
def DecodeResult.needMore (r : DecodeResult) : Bool := r.frameType.isNone && r.consumed == 0

/-- `RX.DRAIN` stops when "r.frame_type ≠ none or r.consumed = 0" (R132). -/
def DecodeResult.stops (r : DecodeResult) : Bool := r.gotFrame || r.consumed == 0

end Sys2Proof.Machine
end

