-- ==== Sys2Proof/Machine/Ops.lean ====
section
/-!
DEFINITION. Machine/Ops.lean: the named operations over the two registers, the buffer's reads (R17, R28) and what stands
here in place of taking an exception (R184). Every meaning is written over them.
-/
/-- A buffer of `n` bytes fits the capacity `RXBUF_CAP` (R11, R130). -/
def Sys2Proof.Config.fits (c : Sys2Proof.Config) (n : Nat) : Bool :=
  match c.rxbufCap with
  | none => true
  | some cap => decide (n ≤ cap)

namespace Sys2Proof.Machine

/-- The outcome type of a meaning. -/
abbrev Result := Host.Outcome State Fault Refusal

/-- `return v`: present a value at the output (R17). -/
def State.present (s : State) (o : Output) : State := { s with output := o }

/-- `CRC.ACC <- v` (R17, R21). -/
def State.setAcc (s : State) (v : U16) : State := { s with crcAcc := v }

/-- Append at the end of `rxbuf`: `MemWrite(len(rxbuf), n, v)` (R17, R130). -/
def State.append (s : State) (v : List Byte) : State := { s with rxbuf := s.rxbuf ++ v }

/-- Remove `k` bytes from the front of `rxbuf` (R131, R49). -/
def State.consume (s : State) (k : Nat) : State := { s with rxbuf := s.rxbuf.drop k }

/-- Both registers to their reset values (R210); the model's own fields stay. -/
def State.clear (s : State) : State := { s with crcAcc := crcStart, rxbuf := [] }

/-- The block's counterpart of taking an exception (R184): the false head at offset 0 goes, nothing is saved, no mode
changes and control goes nowhere. There is no return operation (R185). -/
def State.resync (s : State) : State := s.consume 1

/-- `MemRead(off, n)` (R17): defined only inside the buffer. -/
def State.memRead (s : State) (off n : Nat) : Option (List Byte) :=
  if off + n ≤ s.rxbuf.length then some (slice s.rxbuf off (off + n)) else none

/-- One byte of the buffer, `none` at an offset that does not exist (R28). -/
def State.readByte (s : State) (off : Nat) : Option Byte := s.rxbuf[off]?

/-- Number the bytes from offset `k` on. -/
def Memory.cellsFrom : Nat → List Byte → List Host.Cell
  | _, [] => []
  | k, b :: rest => (k, b) :: Memory.cellsFrom (k + 1) rest

/-- The buffer as address and byte pairs, offset 0 first (R28). An unlisted offset does not exist (log entry 7). -/
def State.memory (s : State) : List Host.Cell := Memory.cellsFrom 0 s.rxbuf

/-- The canonical form from address `k` on: the addresses are `k, k + 1, ...` with no gap (R28: the addressable range
is `0 .. len(rxbuf)-1`). -/
def Memory.wfFrom : Nat → List Host.Cell → Bool
  | _, [] => true
  | k, (a, _) :: rest => a == k && Memory.wfFrom (k + 1) rest

/-- The canonical form of the buffer's cells. -/
def Memory.wf (m : List Host.Cell) : Bool := Memory.wfFrom 0 m

end Sys2Proof.Machine
end

