-- ==== Sys2Proof/Machine/CrcUnit.lean ====
section
/-!
DEFINITION. Machine/CrcUnit.lean: the checksum unit's operations (spec/40_crc16.md R90, R92 to R94).
-/
namespace Sys2Proof.Machine

/-- `CRC16 data` (R90): pure; total; the length is not limited to 8. -/
def execCrc16 (data : List Byte) (s : State) : Result := .next (s.present (.word (crc16 data)))

/-- `CRC.INIT` (R92). -/
def execCrcInit (s : State) : Result := .next ((s.setAcc crcStart).present .nothing)

/-- `CRC.BYTE b` (R93). -/
def execCrcByte (b : Byte) (s : State) : Result := .next ((s.setAcc (crcUpdate s.crcAcc b)).present .nothing)

/-- `CRC.READ` (R94): not destructive. -/
def execCrcRead (s : State) : Result := .next (s.present (.word s.crcAcc))

end Sys2Proof.Machine
end

