-- ==== Sys2Proof/Machine/Encoder.lean ====
section
/-!
DEFINITION. Machine/Encoder.lean: the encoder (spec/41_encode.md R110 to R112).
-/
namespace Sys2Proof.Machine

/-- `[0xAA, type, hi8(L), lo8(L)] ++ payload ++ [hi8(c), lo8(c)] ++ [0x55]` (R112). -/
def frameBytes (type : Byte) (payload : List Byte) : List Byte :=
  let L := BitVec.ofNat 16 payload.length
  let c := crc16 payload
  [headByte, type, hi8 L, lo8 L] ++ payload ++ [hi8 c, lo8 c] ++ [tailByte]

/-- `encode(type, payload)` (R112): the type is tested first, then the length. -/
def encodeFrame (type : Byte) (payload : List Byte) : Except Refusal (List Byte) :=
  if assignedType type then
    if payload.length ≤ maxPayload then .ok (frameBytes type payload) else .error .payloadTooLong
  else .error .badType

/-- `ENCODE type, payload` (R112): pure; outside the contract it is refused (R110, R111, R187). -/
def execEncode (type : Byte) (payload : List Byte) (s : State) : Result :=
  match encodeFrame type payload with
  | .ok f => .next (s.present (.bytes f))
  | .error r => .refused r

end Sys2Proof.Machine
end

