-- ==== Sys2Proof/Machine/Frames.lean ====
section
/-!
DEFINITION. Machine/Frames.lean: the 18 frame kinds. Their row's rule is the decoder's success rule R129: a frame at the
front of the receive buffer is delivered as `(some type, some payload, 7 + L)` and its `7 + L` bytes leave the front
(R131, "caller advances its buffer by `total_len`"). As with any fetched instruction, the meaning is what the block does
when the frame stands where it is read; that `RX.STEP` runs it exactly then is a statement of its own (log entry 4).
-/
namespace Sys2Proof.Machine

/-- R129 with the removal of R131. -/
def State.deliver (s : State) (type : FrameType) (payload : List Byte) : State :=
  (s.consume (overhead + payload.length)).present
    (.triple ⟨some type.code, some payload, overhead + payload.length⟩)

/-- `FRAME.CMD.L0` (R74, R129). -/
def execFrameCmdL0 (s : State) : Result := .next (s.deliver .cmd [])

/-- `FRAME.CMD.L1` (R74, R129). -/
def execFrameCmdL1 (p0 : Byte) (s : State) : Result := .next (s.deliver .cmd [p0])

/-- `FRAME.CMD.L2` (R74, R129). -/
def execFrameCmdL2 (p0 p1 : Byte) (s : State) : Result := .next (s.deliver .cmd [p0, p1])

/-- `FRAME.CMD.L3` (R74, R129). -/
def execFrameCmdL3 (p0 p1 p2 : Byte) (s : State) : Result := .next (s.deliver .cmd [p0, p1, p2])

/-- `FRAME.CMD.L4` (R74, R129). -/
def execFrameCmdL4 (p0 p1 p2 p3 : Byte) (s : State) : Result := .next (s.deliver .cmd [p0, p1, p2, p3])

/-- `FRAME.CMD.L5` (R74, R129). -/
def execFrameCmdL5 (p0 p1 p2 p3 p4 : Byte) (s : State) : Result := .next (s.deliver .cmd [p0, p1, p2, p3, p4])

/-- `FRAME.CMD.L6` (R74, R129). -/
def execFrameCmdL6 (p0 p1 p2 p3 p4 p5 : Byte) (s : State) : Result := .next (s.deliver .cmd [p0, p1, p2, p3, p4, p5])

/-- `FRAME.CMD.L7` (R74, R129). -/
def execFrameCmdL7 (p0 p1 p2 p3 p4 p5 p6 : Byte) (s : State) : Result := .next (s.deliver .cmd [p0, p1, p2, p3, p4, p5, p6])

/-- `FRAME.CMD.L8` (R74, R129). -/
def execFrameCmdL8 (p0 p1 p2 p3 p4 p5 p6 p7 : Byte) (s : State) : Result := .next (s.deliver .cmd [p0, p1, p2, p3, p4, p5, p6, p7])

/-- `FRAME.DATA.L0` (R74, R129). -/
def execFrameDataL0 (s : State) : Result := .next (s.deliver .data [])

/-- `FRAME.DATA.L1` (R74, R129). -/
def execFrameDataL1 (p0 : Byte) (s : State) : Result := .next (s.deliver .data [p0])

/-- `FRAME.DATA.L2` (R74, R129). -/
def execFrameDataL2 (p0 p1 : Byte) (s : State) : Result := .next (s.deliver .data [p0, p1])

/-- `FRAME.DATA.L3` (R74, R129). -/
def execFrameDataL3 (p0 p1 p2 : Byte) (s : State) : Result := .next (s.deliver .data [p0, p1, p2])

/-- `FRAME.DATA.L4` (R74, R129). -/
def execFrameDataL4 (p0 p1 p2 p3 : Byte) (s : State) : Result := .next (s.deliver .data [p0, p1, p2, p3])

/-- `FRAME.DATA.L5` (R74, R129). -/
def execFrameDataL5 (p0 p1 p2 p3 p4 : Byte) (s : State) : Result := .next (s.deliver .data [p0, p1, p2, p3, p4])

/-- `FRAME.DATA.L6` (R74, R129). -/
def execFrameDataL6 (p0 p1 p2 p3 p4 p5 : Byte) (s : State) : Result := .next (s.deliver .data [p0, p1, p2, p3, p4, p5])

/-- `FRAME.DATA.L7` (R74, R129). -/
def execFrameDataL7 (p0 p1 p2 p3 p4 p5 p6 : Byte) (s : State) : Result := .next (s.deliver .data [p0, p1, p2, p3, p4, p5, p6])

/-- `FRAME.DATA.L8` (R74, R129). -/
def execFrameDataL8 (p0 p1 p2 p3 p4 p5 p6 p7 : Byte) (s : State) : Result := .next (s.deliver .data [p0, p1, p2, p3, p4, p5, p6, p7])

end Sys2Proof.Machine
end

