-- ==== Sys2Proof/Machine/Decoder.lean ====
section
/-!
DEFINITION. Machine/Decoder.lean: the block's decoder, step for step as spec/42_decode.md R120 lists it, and `DECODE`.
Every read of the buffer by offset carries the proof that the length tests before it make it in range (R48, R122).
-/
namespace Sys2Proof.Machine

/-- The decoder's outcomes (R181), labels for proofs and tests: the block presents only `Verdict.result`. `badType` is
the extra rejection of `STRICT_TYPE = true` (D5); the other nine are R181's. -/
inductive Verdict where
  | needHeader
  | noHead (n : Nat)
  | skipPrefix (i : Nat)
  | needHeaderAtHead
  | badLength
  | needBody
  | badCrc
  | badTail
  | badType
  | frame (type : Byte) (payload : List Byte)
  deriving DecidableEq, Repr

/-- The classes of R181's table. -/
inductive VerdictClass where
  | wait
  | discardGarbage
  | resynchronize
  | deliver
  deriving DecidableEq, Repr

/-- The class column of R181. -/
def Verdict.class : Verdict → VerdictClass
  | .needHeader => .wait
  | .noHead _ => .discardGarbage
  | .skipPrefix _ => .discardGarbage
  | .needHeaderAtHead => .wait
  | .badLength => .resynchronize
  | .needBody => .wait
  | .badCrc => .resynchronize
  | .badTail => .resynchronize
  | .badType => .resynchronize
  | .frame _ _ => .deliver

/-- The result column of R181. -/
def Verdict.result : Verdict → DecodeResult
  | .needHeader => ⟨none, none, 0⟩
  | .noHead n => ⟨none, none, n⟩
  | .skipPrefix i => ⟨none, none, i⟩
  | .needHeaderAtHead => ⟨none, none, 0⟩
  | .badLength => ⟨none, none, 1⟩
  | .needBody => ⟨none, none, 0⟩
  | .badCrc => ⟨none, none, 1⟩
  | .badTail => ⟨none, none, 1⟩
  | .badType => ⟨none, none, 1⟩
  | .frame type payload => ⟨some type, some payload, overhead + payload.length⟩

/-- "least offset with buf[i] = 0xAA, if any" (R120 step 2). -/
def findHead (buf : List Byte) : Option Nat := buf.findIdx? (fun b => b == headByte)

/-- Steps 7 to 9 of R120, on a candidate at offset 0 that is complete. With `strict` the type is tested last: D5 rejects
"a candidate that passes every other test". -/
def judgeBody (strict : Bool) (buf : List Byte) (L : Nat) (h : overhead + L ≤ buf.length) : Verdict :=
  have hb : 7 + L ≤ buf.length := h
  let payload := slice buf 4 (4 + L)
  if crc16 payload ≠ be16 (buf[4 + L]'(by omega)) (buf[5 + L]'(by omega)) then .badCrc
  else if buf[6 + L]'(by omega) ≠ tailByte then .badTail
  else if strict && !assignedType (buf[1]'(by omega)) then .badType
  else .frame (buf[1]'(by omega)) payload

/-- Steps 5 and 6 of R120, on a buffer whose head is at offset 0 and that holds a header. The length field is compared
as a full unsigned 16-bit value before `7 + L` is formed (R125, R122). -/
def judgeHead (strict : Bool) (buf : List Byte) (h : headerLen ≤ buf.length) : Verdict :=
  have hb : 4 ≤ buf.length := h
  let L := (be16 (buf[2]'(by omega)) (buf[3]'(by omega))).toNat
  if L > maxPayload then .badLength
  else if hL : overhead + L ≤ buf.length then judgeBody strict buf L hL
  else .needBody

/-- Steps 1 to 4 of R120, then the rest. Step 4 can never fire (R123, 90_conflicts.md C4) and is kept as R120 keeps it. -/
def examine (strict : Bool) (buf : List Byte) : Verdict :=
  if h : headerLen ≤ buf.length then
    match findHead buf with
    | none => .noHead buf.length
    | some i =>
      if i > 0 then .skipPrefix i
      else if buf.length - i < headerLen then .needHeaderAtHead
      else judgeHead strict buf h
  else .needHeader

/-- `decode(buf)` (R120), with the switch `STRICT_TYPE` of R11. -/
def decode (strict : Bool) (buf : List Byte) : DecodeResult := (examine strict buf).result

/-- `DECODE buf` (R120): pure and total. -/
def execDecode (buf : List Byte) (s : State) : Result :=
  .next (s.present (.triple (decode s.cfg.strictType buf)))

/-- The valid-frame predicate (R69). It does not mention offset 1. -/
def validFrame (f : List Byte) : Bool :=
  let L := (be16 (byteAt f 2) (byteAt f 3)).toNat
  decide (minFrame ≤ f.length) && byteAt f 0 == headByte && decide (L ≤ maxPayload)
    && f.length == overhead + L && be16 (byteAt f (4 + L)) (byteAt f (5 + L)) == crc16 (slice f 4 (4 + L))
    && byteAt f (6 + L) == tailByte

/-- A well-typed frame (R69): valid, with an assigned type. -/
def wellTypedFrame (f : List Byte) : Bool := validFrame f && assignedType (byteAt f 1)

end Sys2Proof.Machine
end

