-- ==== Sys2Proof/Machine/Receiver.lean ====
section
/-!
DEFINITION. Machine/Receiver.lean: the receive buffer's operations (spec/42_decode.md R130 to R132) and `RESET`
(spec/70_reset_and_hazards.md R210).
-/
namespace Sys2Proof.Machine

/-- `RX.PUSH v` (R130): append, or refuse beyond `RXBUF_CAP`; never a partial append. -/
def execRxPush (v : List Byte) (s : State) : Result :=
  if s.cfg.fits (s.rxbuf.length + v.length) then .next ((s.append v).present .nothing)
  else .refused .rxOverflow

/-- `RX.STEP` on the state (R131): decode, drop `consumed` bytes, present the triple. -/
def State.rxStep (s : State) : State :=
  let r := decode s.cfg.strictType s.rxbuf
  (s.consume r.consumed).present (.triple r)

/-- `RX.STEP` (R131). -/
def execRxStep (s : State) : Result := .next s.rxStep

/-- The loop of `RX.DRAIN` (R132) with at most `n` steps after the first. -/
def State.drainLoop : Nat → State → State
  | 0, s => s.rxStep
  | n + 1, s => if (decode s.cfg.strictType s.rxbuf).stops then s.rxStep else State.drainLoop n s.rxStep

/-- `RX.DRAIN` (R132): the loop makes at most `len(rxbuf) + 1` steps (R133), so this many are allowed it
(log entry 10). -/
def State.rxDrain (s : State) : State := State.drainLoop s.rxbuf.length s

/-- `RX.DRAIN` (R132). -/
def execRxDrain (s : State) : Result := .next s.rxDrain

/-- `RESET` (R210). -/
def execReset (s : State) : Result := .next (s.clear.present .nothing)

end Sys2Proof.Machine
end

