-- ==== Sys2Proof/Machine/Dispatch.lean ====
section
/-! DEFINITION. Machine/Dispatch.lean: one arm per row of spec/opcode_table.json; no row is without its meaning. -/
namespace Sys2Proof.Machine

def exec (i : Instr) (s : State) : Host.Outcome State Fault Refusal :=
  match i with
  | .frameCmdL0 => Sys2Proof.Machine.execFrameCmdL0 s
  | .frameCmdL1 p0 => Sys2Proof.Machine.execFrameCmdL1 p0 s
  | .frameCmdL2 p0 p1 => Sys2Proof.Machine.execFrameCmdL2 p0 p1 s
  | .frameCmdL3 p0 p1 p2 => Sys2Proof.Machine.execFrameCmdL3 p0 p1 p2 s
  | .frameCmdL4 p0 p1 p2 p3 => Sys2Proof.Machine.execFrameCmdL4 p0 p1 p2 p3 s
  | .frameCmdL5 p0 p1 p2 p3 p4 => Sys2Proof.Machine.execFrameCmdL5 p0 p1 p2 p3 p4 s
  | .frameCmdL6 p0 p1 p2 p3 p4 p5 => Sys2Proof.Machine.execFrameCmdL6 p0 p1 p2 p3 p4 p5 s
  | .frameCmdL7 p0 p1 p2 p3 p4 p5 p6 => Sys2Proof.Machine.execFrameCmdL7 p0 p1 p2 p3 p4 p5 p6 s
  | .frameCmdL8 p0 p1 p2 p3 p4 p5 p6 p7 => Sys2Proof.Machine.execFrameCmdL8 p0 p1 p2 p3 p4 p5 p6 p7 s
  | .frameDataL0 => Sys2Proof.Machine.execFrameDataL0 s
  | .frameDataL1 p0 => Sys2Proof.Machine.execFrameDataL1 p0 s
  | .frameDataL2 p0 p1 => Sys2Proof.Machine.execFrameDataL2 p0 p1 s
  | .frameDataL3 p0 p1 p2 => Sys2Proof.Machine.execFrameDataL3 p0 p1 p2 s
  | .frameDataL4 p0 p1 p2 p3 => Sys2Proof.Machine.execFrameDataL4 p0 p1 p2 p3 s
  | .frameDataL5 p0 p1 p2 p3 p4 => Sys2Proof.Machine.execFrameDataL5 p0 p1 p2 p3 p4 s
  | .frameDataL6 p0 p1 p2 p3 p4 p5 => Sys2Proof.Machine.execFrameDataL6 p0 p1 p2 p3 p4 p5 s
  | .frameDataL7 p0 p1 p2 p3 p4 p5 p6 => Sys2Proof.Machine.execFrameDataL7 p0 p1 p2 p3 p4 p5 p6 s
  | .frameDataL8 p0 p1 p2 p3 p4 p5 p6 p7 => Sys2Proof.Machine.execFrameDataL8 p0 p1 p2 p3 p4 p5 p6 p7 s
  | .crc16 data => Sys2Proof.Machine.execCrc16 data s
  | .crcInit => Sys2Proof.Machine.execCrcInit s
  | .crcByte b => Sys2Proof.Machine.execCrcByte b s
  | .crcRead => Sys2Proof.Machine.execCrcRead s
  | .encode type payload => Sys2Proof.Machine.execEncode type payload s
  | .decode buf => Sys2Proof.Machine.execDecode buf s
  | .rxPush v => Sys2Proof.Machine.execRxPush v s
  | .rxStep => Sys2Proof.Machine.execRxStep s
  | .rxDrain => Sys2Proof.Machine.execRxDrain s
  | .reset => Sys2Proof.Machine.execReset s

end Sys2Proof.Machine
end

