-- ==== Sys2Proof/Machine/Step.lean ====
section
/-!
DEFINITION. Machine/Step.lean: one step. The block has no program counter and fetches nothing (R24): it takes a step only
when the environment issues an operation, and between operations its state does not change (R231). So a step performs
the oldest issued operation, and with none issued the state stays (log entry 1).
-/
namespace Sys2Proof.Machine

/-- One step: the oldest request leaves the queue and is performed as one atomic transaction (R50, R51). -/
def step (s : State) : Host.Outcome State Fault Refusal :=
  match s.requests with
  | [] => .next s
  | r :: rest => exec r.instr { s with requests := rest }

/-- The environment issues an operation: it goes behind those already issued (R51). -/
def State.issue (s : State) (r : Request) : State := { s with requests := s.requests ++ [r] }

/-- The table's instruction placed where the next step reads one: its bytes at the front of `rxbuf`, and `RX.STEP` as
the next request, which is what makes the block read them (log entries 5 and 6). -/
def State.withFetchWord (s : State) (nbits w : Nat) : State :=
  let bytes := tableBytes nbits w
  { s with rxbuf := bytes ++ s.rxbuf.drop bytes.length, requests := .rxStep :: s.requests }

end Sys2Proof.Machine
end

