-- ==== Sys2Proof/Safety.lean ====
section
/-!
DEFINITION. Safety.lean: the terms claims are stated in: the invariant of R32, an operation's contract (R187), and runs.
-/
namespace Sys2Proof.Machine

/-- R32: `0 ≤ len(rxbuf) ≤ RXBUF_CAP` (the accumulator's bound is its type), with R11's bound on the parameter. -/
def State.Inv (s : State) : Prop := s.cfg.wf = true ∧ s.cfg.fits s.rxbuf.length = true

/-- The instruction is inside its operation's contract in this state (R187): well-formed operands, and for `RX.PUSH`
room in the buffer. -/
def inContract (i : Instr) (s : State) : Bool :=
  i.wf &&
    match i with
    | .rxPush v => s.cfg.fits (s.rxbuf.length + v.length)
    | _ => true

/-- Apply a change to the next state of an outcome, leaving a fault or refusal as it is. -/
def mapNext (f : State → State) : Result → Result
  | .next s => .next (f s)
  | .fault r => .fault r
  | .refused r => .refused r

/-- `f` with bit `k` of the byte at offset `j` flipped (R137). -/
def flipBit (f : List Byte) (j k : Nat) : List Byte := f.set j (byteAt f j ^^^ (1#8 <<< k))

/-- The bytes an instruction appends to the receive buffer: those of `RX.PUSH`, else none (R22, R54). -/
def pushedBytes : Instr → List Byte
  | .rxPush v => v
  | _ => []

/-- The requests that write the accumulator (R21). -/
def Request.writesAcc : Request → Bool
  | .crcInit => true
  | .crcByte _ => true
  | .reset => true
  | .crc16 _ => false
  | .crcRead => false
  | .encode _ _ => false
  | .decode _ => false
  | .rxPush _ => false
  | .rxStep => false
  | .rxDrain => false

/-- `n` steps of the machine (Host.Core.run of the model). -/
abbrev run (n : Nat) (s : State) : Host.Outcome State Fault Refusal := Host.Core.run Sys2Proof.core n s

/-- `t` is reached from `s` by steps between which the environment may issue any operation (R231). -/
inductive Reaches (s : State) : State → Prop where
  | here : Reaches s s
  | issue (t : State) (r : Request) : Reaches s t → Reaches s (t.issue r)
  | step (t u : State) : Reaches s t → Machine.step t = .next u → Reaches s u

end Sys2Proof.Machine
end

