-- ==== Sys2Proof/Certificates/Slice0/Obligations.lean ====
section
/-!
DEFINITION. Certificates/Slice0/Obligations.lean: the statements for the provers. A rule of the spec that carries the
mark [decision] or [derived] is the spec's own choice or inference; the docstring of a statement that rests on one says so.
-/
open Sys2Proof Sys2Proof.Machine

/-! ### Checksum unit -/

/-- R90 (that nothing is applied after the last byte is the spec's decision D17). `CRC16` completes in every state,
changes nothing but the output, and presents the CRC that starts at `0xFFFF` and takes the bytes in order. -/
def Obligations.Crc16CompletesWithR90Value : Prop :=
  (∀ (data : List Byte) (s : State), exec (.crc16 data) s = .next { s with output := .word (crc16 data) }) ∧
  crc16 [] = 0xFFFF ∧
  (∀ (data : List Byte) (b : Byte), crc16 (data ++ [b]) = crcUpdate (crc16 data) b) ∧
  crc16 [0x01] = 0x807E

/-- R91. The bit step, the byte step of exactly eight bit steps, and the rule's worked trace. -/
def Obligations.CrcUpdateIsEightBitSteps : Prop :=
  (∀ acc : U16, acc.getLsbD 0 = true → crcBit acc = (acc >>> 1) ^^^ 0xA001) ∧
  (∀ acc : U16, acc.getLsbD 0 = false → crcBit acc = acc >>> 1) ∧
  (∀ (acc : U16) (b : Byte), crcUpdate acc b =
    crcBit (crcBit (crcBit (crcBit (crcBit (crcBit (crcBit (crcBit (acc ^^^ b.setWidth 16))))))))) ∧
  (List.range 9).map (fun n => crcBits n (0xFFFF ^^^ 0x0001)) =
    [0xFFFE, 0x7FFF, 0x9FFE, 0x4FFF, 0x87FE, 0x43FF, 0x81FE, 0x40FF, 0x807E]

/-- R92, R93, R94 (the spec's decision D1). The three register operations complete in every state with the value the
rules give the accumulator; `CRC.READ` leaves it. -/
def Obligations.CrcRegisterOperationsComplete : Prop :=
  ∀ s : State,
    exec .crcInit s = .next { s with crcAcc := 0xFFFF, output := .nothing } ∧
    (∀ b : Byte, exec (.crcByte b) s = .next { s with crcAcc := crcUpdate s.crcAcc b, output := .nothing }) ∧
    exec .crcRead s = .next { s with output := .word s.crcAcc }

/-- R95 (derived by the spec; the request queue is the model's, log entry 1). `CRC.INIT`, one `CRC.BYTE` per byte and `CRC.READ` present `crc16` of the bytes, from
every state; and accumulation over `e` after `d` gives `crc16 (d ++ e)`. -/
def Obligations.SerialCrcEqualsPureCrc : Prop :=
  (∀ (d : List Byte) (s : State) (rest : List Request),
    s.requests = [.crcInit] ++ d.map .crcByte ++ [.crcRead] ++ rest →
    run (d.length + 2) s = .next { s with crcAcc := crc16 d, requests := rest, output := .word (crc16 d) }) ∧
  (∀ (d e : List Byte) (s : State) (rest : List Request),
    s.crcAcc = crc16 d → s.requests = e.map .crcByte ++ [.crcRead] ++ rest →
    run (e.length + 1) s =
      .next { s with crcAcc := crc16 (d ++ e), requests := rest, output := .word (crc16 (d ++ e)) })

/-- R96 (derived by the spec). The bit step is a bijection whose new bit 15 is the old bit 0, and the XOR of a byte
leaves bits 15:8. -/
def Obligations.CrcBitStepIsBijective : Prop :=
  (∀ a b : U16, crcBit a = crcBit b → a = b) ∧
  (∀ c : U16, ∃ a : U16, crcBit a = c) ∧
  (∀ a : U16, (crcBit a).getLsbD 15 = a.getLsbD 0) ∧
  (∀ (a : U16) (b : Byte) (k : Nat), 8 ≤ k → (a ^^^ zext16 b).getLsbD k = a.getLsbD k)

/-- R97, first half (derived by the spec). `crc16` is affine over bytewise XOR. -/
def Obligations.Crc16IsAffineOverXor : Prop :=
  ∀ a b c : List Byte, a.length = b.length → b.length = c.length →
    crc16 a ^^^ crc16 b ^^^ crc16 c = crc16 (List.zipWith (· ^^^ ·) (List.zipWith (· ^^^ ·) a b) c)

/-- R97, second half (derived by the spec). One flipped bit of the data changes the CRC, at any length. -/
def Obligations.Crc16DetectsOneFlippedBit : Prop :=
  ∀ (data : List Byte) (j k : Nat), j < data.length → k < 8 → crc16 (flipBit data j k) ≠ crc16 data

/-! ### Encoder and frame kinds -/

/-- R112 and R110. Inside the contract `ENCODE` completes with the frame's bytes and changes no register; a type outside
the two is refused first, then a payload over 8 bytes (R112's own order; what the refusals answer to is in D6 and D7). -/
def Obligations.EncodeBuildsFrameOrRefuses : Prop :=
  ∀ (type : Byte) (payload : List Byte) (s : State),
    ((type = 0x01 ∨ type = 0x02) → payload.length ≤ 8 →
      exec (.encode type payload) s = .next { s with output := .bytes (
        [0xAA, type, 0x00, BitVec.ofNat 8 payload.length] ++ payload
          ++ [hi8 (crc16 payload), lo8 (crc16 payload)] ++ [0x55]) }) ∧
    ((type = 0x01 ∨ type = 0x02) → 8 < payload.length → exec (.encode type payload) s = .refused .payloadTooLong) ∧
    (type ≠ 0x01 → type ≠ 0x02 → exec (.encode type payload) s = .refused .badType)

/-- R113 (derived by the spec). What `ENCODE` presents is a well-typed valid frame of `7 + len(payload)` bytes. -/
def Obligations.EncodeResultIsWellTypedFrame : Prop :=
  ∀ (type : Byte) (payload : List Byte) (s t : State) (f : List Byte),
    exec (.encode type payload) s = .next t → t.output = .bytes f →
    f.length = 7 + payload.length ∧ wellTypedFrame f = true

/-- R47 (with R40 and the encoder's half of R43). The layout of what `ENCODE` presents, offset by offset. -/
def Obligations.EncodedFrameLayout : Prop :=
  ∀ (type : Byte) (payload : List Byte) (s t : State) (f : List Byte),
    exec (.encode type payload) s = .next t → t.output = .bytes f →
    f.length = 7 + payload.length ∧ byteAt f 0 = 0xAA ∧ byteAt f 1 = type ∧ (type = 0x01 ∨ type = 0x02) ∧
    byteAt f 2 = 0x00 ∧ 256 * (byteAt f 2).toNat + (byteAt f 3).toNat = payload.length ∧ payload.length ≤ 8 ∧
    (∀ j : Nat, j < payload.length → byteAt f (4 + j) = byteAt payload j) ∧
    byteAt f (4 + payload.length) = hi8 (crc16 payload) ∧ byteAt f (5 + payload.length) = lo8 (crc16 payload) ∧
    byteAt f (6 + payload.length) = 0x55

/-- R75. The well-typed frames are exactly the encodings, each of exactly one pair, which `DECODE` recovers. -/
def Obligations.EncodeIsBijectionOntoWellTypedFrames : Prop :=
  ∀ (f : List Byte) (s : State),
    wellTypedFrame f = true ↔
      ∃ (type : Byte) (payload : List Byte),
        exec (.encode type payload) s = .next { s with output := .bytes f } ∧
        exec (.decode f) s = .next { s with output := .triple ⟨some type, some payload, 7 + payload.length⟩ } ∧
        ∀ (type' : Byte) (payload' : List Byte),
          exec (.encode type' payload') s = .next { s with output := .bytes f } → type' = type ∧ payload' = payload

/-- R74. The table's bytes of a frame kind are what `ENCODE` builds from its type and payload. -/
def Obligations.TableWordsAgreeWithEncode : Prop :=
  ∀ (i : Instr) (type : FrameType) (payload : List Byte), i.frame? = some (type, payload) →
    ∀ s : State, exec (.encode type.code payload) s = .next { s with output := .bytes (encode i) }

/-- R74. The table decoder reads back every frame kind from its own bytes, whatever follows; all payload bytes are
arbitrary. -/
def Obligations.TableDecodeOfEncode : Prop :=
  ∀ (i : Instr) (rest : List Byte), i.frame?.isSome = true → decodeFrame (encode i ++ rest) = .ok (i, rest)

/-- R74. What the table decoder accepts is the encoding of the frame kind it answers, and nothing else: no bit of an
accepted frame is ignored. -/
def Obligations.TableDecodeAcceptsOnlyEncodings : Prop :=
  ∀ (buf rest : List Byte) (i : Instr), decodeFrame buf = .ok (i, rest) → i.frame?.isSome = true ∧ buf = encode i ++ rest

/-- Words written out from R47 and R74 (95_test_vectors.md section 3) decode to their instruction; wrong ones are refused
by name. The refusals and their names are the table decoder's; that it refuses the valid frame of an unassigned type, which
the block's own decoder delivers (R70, R124), is the model's choice (log entry 15, DEDUCED). -/
def Obligations.TableDecodesWrittenOutWords : Prop :=
  decodeFrame [0xAA, 0x01, 0x00, 0x00, 0xFF, 0xFF, 0x55] = .ok (.frameCmdL0, []) ∧
  decodeFrame [0xAA, 0x02, 0x00, 0x02, 0x01, 0x02, 0xE1, 0x81, 0x55, 0xAA] = .ok (.frameDataL2 0x01 0x02, [0xAA]) ∧
  decodeFrame [0xAA, 0x02, 0x00, 0x08, 0x01, 0x02, 0x03, 0x04, 0x05, 0x06, 0x07, 0x08, 0xCF, 0xB0, 0x55] =
    .ok (.frameDataL8 0x01 0x02 0x03 0x04 0x05 0x06 0x07 0x08, []) ∧
  decodeFrame [0xAA, 0x03, 0x00, 0x00, 0xFF, 0xFF, 0x55] = .error .unassignedType ∧
  decodeFrame [0xAA, 0x01, 0x00, 0x09] = .error .illegalLength ∧
  decodeFrame [0xAA, 0x01, 0x00, 0x00, 0xFF, 0xFE, 0x55] = .error .badCrc ∧
  decodeFrame [0xAA, 0x01, 0x00, 0x00, 0xFF, 0xFF, 0x54] = .error .badTail

/-- R129 with R131 for the nine CMD kinds (the spec's decisions D2, D11; that a frame kind's effect is its delivery from
the front of `rxbuf` is the model's choice, log entry 4): each completes in every state, presents its type, payload and
size, drops exactly its `7 + L` bytes and leaves everything else. -/
def Obligations.CmdFrameKindsComplete : Prop :=
  ∀ (s : State) (p0 p1 p2 p3 p4 p5 p6 p7 : Byte),
    exec .frameCmdL0 s = .next { s with rxbuf := s.rxbuf.drop 7, output := .triple ⟨some 0x01, some [], 7⟩ } ∧
    exec (.frameCmdL1 p0) s = .next { s with rxbuf := s.rxbuf.drop 8, output := .triple ⟨some 0x01, some [p0], 8⟩ } ∧
    exec (.frameCmdL2 p0 p1) s =
      .next { s with rxbuf := s.rxbuf.drop 9, output := .triple ⟨some 0x01, some [p0, p1], 9⟩ } ∧
    exec (.frameCmdL3 p0 p1 p2) s =
      .next { s with rxbuf := s.rxbuf.drop 10, output := .triple ⟨some 0x01, some [p0, p1, p2], 10⟩ } ∧
    exec (.frameCmdL4 p0 p1 p2 p3) s =
      .next { s with rxbuf := s.rxbuf.drop 11, output := .triple ⟨some 0x01, some [p0, p1, p2, p3], 11⟩ } ∧
    exec (.frameCmdL5 p0 p1 p2 p3 p4) s =
      .next { s with rxbuf := s.rxbuf.drop 12, output := .triple ⟨some 0x01, some [p0, p1, p2, p3, p4], 12⟩ } ∧
    exec (.frameCmdL6 p0 p1 p2 p3 p4 p5) s =
      .next { s with rxbuf := s.rxbuf.drop 13, output := .triple ⟨some 0x01, some [p0, p1, p2, p3, p4, p5], 13⟩ } ∧
    exec (.frameCmdL7 p0 p1 p2 p3 p4 p5 p6) s =
      .next { s with rxbuf := s.rxbuf.drop 14, output := .triple ⟨some 0x01, some [p0, p1, p2, p3, p4, p5, p6], 14⟩ } ∧
    exec (.frameCmdL8 p0 p1 p2 p3 p4 p5 p6 p7) s =
      .next { s with rxbuf := s.rxbuf.drop 15, output := .triple ⟨some 0x01, some [p0, p1, p2, p3, p4, p5, p6, p7], 15⟩ }

/-- The same for the nine DATA kinds. -/
def Obligations.DataFrameKindsComplete : Prop :=
  ∀ (s : State) (p0 p1 p2 p3 p4 p5 p6 p7 : Byte),
    exec .frameDataL0 s = .next { s with rxbuf := s.rxbuf.drop 7, output := .triple ⟨some 0x02, some [], 7⟩ } ∧
    exec (.frameDataL1 p0) s = .next { s with rxbuf := s.rxbuf.drop 8, output := .triple ⟨some 0x02, some [p0], 8⟩ } ∧
    exec (.frameDataL2 p0 p1) s =
      .next { s with rxbuf := s.rxbuf.drop 9, output := .triple ⟨some 0x02, some [p0, p1], 9⟩ } ∧
    exec (.frameDataL3 p0 p1 p2) s =
      .next { s with rxbuf := s.rxbuf.drop 10, output := .triple ⟨some 0x02, some [p0, p1, p2], 10⟩ } ∧
    exec (.frameDataL4 p0 p1 p2 p3) s =
      .next { s with rxbuf := s.rxbuf.drop 11, output := .triple ⟨some 0x02, some [p0, p1, p2, p3], 11⟩ } ∧
    exec (.frameDataL5 p0 p1 p2 p3 p4) s =
      .next { s with rxbuf := s.rxbuf.drop 12, output := .triple ⟨some 0x02, some [p0, p1, p2, p3, p4], 12⟩ } ∧
    exec (.frameDataL6 p0 p1 p2 p3 p4 p5) s =
      .next { s with rxbuf := s.rxbuf.drop 13, output := .triple ⟨some 0x02, some [p0, p1, p2, p3, p4, p5], 13⟩ } ∧
    exec (.frameDataL7 p0 p1 p2 p3 p4 p5 p6) s =
      .next { s with rxbuf := s.rxbuf.drop 14, output := .triple ⟨some 0x02, some [p0, p1, p2, p3, p4, p5, p6], 14⟩ } ∧
    exec (.frameDataL8 p0 p1 p2 p3 p4 p5 p6 p7) s =
      .next { s with rxbuf := s.rxbuf.drop 15, output := .triple ⟨some 0x02, some [p0, p1, p2, p3, p4, p5, p6, p7], 15⟩ }

/-! ### Decoder -/

/-- R121 (derived by the spec). `DECODE` completes on every buffer in every state, changes nothing but the output, and
its triple has the shape the rule gives: with a frame, that of the valid frame at offset 0; without one, `consumed` is 0
(need more data), the length of a headless buffer of 4 bytes or more, the offset of a first head further on, or 1 (a false
head at offset 0). `byteAt` and `validFrame` are R14's and R69's. -/
def Obligations.DecodeCompletesWithBoundedResult : Prop :=
  ∀ (buf : List Byte) (s : State), ∃ r : DecodeResult,
    exec (.decode buf) s = .next { s with output := .triple r } ∧
    (r.frameType = none ↔ r.payload = none) ∧
    r.consumed ≤ buf.length ∧
    (r.consumed = 0 ↔ r.needMore = true) ∧
    (∀ p : List Byte, r.payload = some p →
      r.consumed = 7 + p.length ∧ p.length ≤ 8 ∧ byteAt buf 0 = 0xAA ∧ r.frameType = some (byteAt buf 1) ∧
      validFrame (buf.take r.consumed) = true) ∧
    (r.frameType = none →
      (r.consumed = 0 ∧ (buf.length < 4 ∨ byteAt buf 0 = 0xAA)) ∨
      (r.consumed = buf.length ∧ 4 ≤ buf.length ∧ 0xAA ∉ buf) ∨
      (1 ≤ r.consumed ∧ r.consumed < buf.length ∧ 0xAA ∉ buf.take r.consumed ∧ byteAt buf r.consumed = 0xAA) ∨
      (r.consumed = 1 ∧ 4 ≤ buf.length ∧ byteAt buf 0 = 0xAA))

/-- R123 (the spec's decisions D4, D18). Fewer than 4 bytes wait; with 4 or more, a buffer without a head is consumed
whole and a prefix before the first head is consumed alone, whatever follows it. -/
def Obligations.DecodeWaitsOrDropsGarbage : Prop :=
  ∀ s : State,
    (∀ buf : List Byte, buf.length < 4 → exec (.decode buf) s = .next { s with output := .triple ⟨none, none, 0⟩ }) ∧
    (∀ buf : List Byte, 4 ≤ buf.length → 0xAA ∉ buf →
      exec (.decode buf) s = .next { s with output := .triple ⟨none, none, buf.length⟩ }) ∧
    (∀ g rest : List Byte, g ≠ [] → 0xAA ∉ g → 4 ≤ g.length + 1 + rest.length →
      exec (.decode (g ++ 0xAA :: rest)) s = .next { s with output := .triple ⟨none, none, g.length⟩ })

/-- R125. A length above 8 costs one byte, on the header alone. -/
def Obligations.DecodeRejectsIllegalLength : Prop :=
  ∀ (s : State) (t h l : Byte) (rest : List Byte), 8 < 256 * h.toNat + l.toNat →
    exec (.decode (0xAA :: t :: h :: l :: rest)) s = .next { s with output := .triple ⟨none, none, 1⟩ }

/-- R126. An incomplete candidate with a legal length is waited on: nothing is consumed. -/
def Obligations.DecodeWaitsForBody : Prop :=
  ∀ (s : State) (t h l : Byte) (rest : List Byte), 256 * h.toNat + l.toNat ≤ 8 →
    4 + rest.length < 7 + (256 * h.toNat + l.toNat) →
    exec (.decode (0xAA :: t :: h :: l :: rest)) s = .next { s with output := .triple ⟨none, none, 0⟩ }

/-- R127. A complete candidate whose crc field is not the CRC of its payload costs one byte; in the buffer the other bytes
of the candidate stay, to be scanned again. -/
def Obligations.DecodeRejectsBadCrc : Prop :=
  ∀ (s : State) (t h l ch cl tail : Byte) (payload rest : List Byte),
    256 * h.toNat + l.toNat ≤ 8 → payload.length = 256 * h.toNat + l.toNat →
    256 * ch.toNat + cl.toNat ≠ (crc16 payload).toNat →
    exec (.decode ([0xAA, t, h, l] ++ payload ++ [ch, cl, tail] ++ rest)) s =
      .next { s with output := .triple ⟨none, none, 1⟩ } ∧
    (s.rxbuf = [0xAA, t, h, l] ++ payload ++ [ch, cl, tail] ++ rest →
      exec .rxStep s = .next
        { s with rxbuf := [t, h, l] ++ payload ++ [ch, cl, tail] ++ rest, output := .triple ⟨none, none, 1⟩ })

/-- R128. A good CRC and a tail other than `0x55` costs one byte. -/
def Obligations.DecodeRejectsBadTail : Prop :=
  ∀ (s : State) (t h l ch cl tail : Byte) (payload rest : List Byte),
    256 * h.toNat + l.toNat ≤ 8 → payload.length = 256 * h.toNat + l.toNat →
    256 * ch.toNat + cl.toNat = (crc16 payload).toNat → tail ≠ 0x55 →
    exec (.decode ([0xAA, t, h, l] ++ payload ++ [ch, cl, tail] ++ rest)) s =
      .next { s with output := .triple ⟨none, none, 1⟩ }

/-- R129, R124 (the spec's decisions D5, D11). A candidate that passes every test is delivered with its type byte as it
stands; under `STRICT_TYPE` one with an unassigned type costs one byte instead. -/
def Obligations.DecodeDeliversGoodFrame : Prop :=
  ∀ (s : State) (t h l ch cl : Byte) (payload rest : List Byte),
    256 * h.toNat + l.toNat ≤ 8 → payload.length = 256 * h.toNat + l.toNat →
    256 * ch.toNat + cl.toNat = (crc16 payload).toNat →
    (s.cfg.strictType = false ∨ t = 0x01 ∨ t = 0x02 →
      exec (.decode ([0xAA, t, h, l] ++ payload ++ [ch, cl, 0x55] ++ rest)) s =
        .next { s with output := .triple ⟨some t, some payload, 7 + payload.length⟩ }) ∧
    (s.cfg.strictType = true → t ≠ 0x01 → t ≠ 0x02 →
      exec (.decode ([0xAA, t, h, l] ++ payload ++ [ch, cl, 0x55] ++ rest)) s =
        .next { s with output := .triple ⟨none, none, 1⟩ })

/-- R124 (the spec's decision D5). With `STRICT_TYPE` false the byte after a head at offset 0 takes part in no test:
replacing it changes nothing of the result but the frame type, which becomes it where there is one. -/
def Obligations.DecodeNeverTestsTypeByte : Prop :=
  ∀ (s : State) (t t' : Byte) (rest : List Byte) (r r' : DecodeResult), s.cfg.strictType = false →
    exec (.decode (0xAA :: t :: rest)) s = .next { s with output := .triple r } →
    exec (.decode (0xAA :: t' :: rest)) s = .next { s with output := .triple r' } →
    r'.payload = r.payload ∧ r'.consumed = r.consumed ∧ r'.frameType = r.frameType.map (fun _ => t')

/-- D5. `STRICT_TYPE` changes the result of exactly those buffers whose frame has an unassigned type, to
`(none, none, 1)`. -/
def Obligations.StrictTypeRejectsOnlyUnassignedTypes : Prop :=
  ∀ buf : List Byte,
    decode true buf =
      match (decode false buf).frameType with
      | some t => if t = 0x01 ∨ t = 0x02 then decode false buf else ⟨none, none, 1⟩
      | none => decode false buf

/-- R48 (derived by the spec). Once a candidate at offset 0 has a verdict other than "need more data", bytes after the
buffer change nothing: bytes beyond the candidate are not read. -/
def Obligations.DecodeVerdictIgnoresLaterBytes : Prop :=
  ∀ (s : State) (buf more : List Byte) (r : DecodeResult), byteAt buf 0 = 0xAA → r.needMore = false →
    exec (.decode buf) s = .next { s with output := .triple r } →
    exec (.decode (buf ++ more)) s = .next { s with output := .triple r }

/-- R134 (derived by the spec). A buffer of 15 bytes or more always loses at least one. -/
def Obligations.DecodeProgressOnFullBuffer : Prop :=
  ∀ (buf : List Byte) (s : State), 15 ≤ buf.length →
    ∃ r : DecodeResult, exec (.decode buf) s = .next { s with output := .triple r } ∧ 1 ≤ r.consumed

/-- R126 with the source's property S5. Every proper beginning of a valid frame is waited on. -/
def Obligations.PartialFrameIsWaitedOn : Prop :=
  ∀ (s : State) (f : List Byte) (k : Nat), validFrame f = true → k < f.length →
    exec (.decode (f.take k)) s = .next { s with output := .triple ⟨none, none, 0⟩ }

/-- R135. The round-trip law, with any bytes after the frame, between any two instances. -/
def Obligations.DecodeOfEncodeRoundTrip : Prop :=
  ∀ (type : Byte) (payload : List Byte) (s u : State), (type = 0x01 ∨ type = 0x02) → payload.length ≤ 8 →
    ∃ f : List Byte, exec (.encode type payload) s = .next { s with output := .bytes f } ∧
      ∀ rest : List Byte, exec (.decode (f ++ rest)) u =
        .next { u with output := .triple ⟨some type, some payload, 7 + payload.length⟩ }

/-- R136. Garbage without a head before a valid frame goes in one step, and the next one yields the frame. (The rules are
written for `STRICT_TYPE = false`; under `true` the frame must be well typed, here and below.) -/
def Obligations.GarbagePrefixThenFrame : Prop :=
  ∀ (s : State) (g f : List Byte), validFrame f = true → g ≠ [] → 0xAA ∉ g →
    (s.cfg.strictType = false ∨ byteAt f 1 = 0x01 ∨ byteAt f 1 = 0x02) →
    exec (.decode (g ++ f)) s = .next { s with output := .triple ⟨none, none, g.length⟩ } ∧
    exec (.decode f) s =
      .next { s with output := .triple ⟨some (byteAt f 1), some (slice f 4 (f.length - 3)), f.length⟩ }

/-- R137. One flipped bit in the payload, the crc field or the tail of a valid frame costs exactly one byte, whatever
follows. -/
def Obligations.SingleBitCorruptionCostsOneByte : Prop :=
  ∀ (s : State) (f rest : List Byte) (j k : Nat), validFrame f = true → 4 ≤ j → j < f.length → k < 8 →
    exec (.decode (flipBit f j k ++ rest)) s = .next { s with output := .triple ⟨none, none, 1⟩ }

/-- R138 (derived by the spec). With a complete valid frame behind `a`, a call that
returns no frame consumes no byte of it. -/
def Obligations.GoodFrameIsNeverSkipped : Prop :=
  ∀ (s : State) (a f b : List Byte), validFrame f = true → (s.cfg.strictType = false ∨ byteAt f 1 = 0x01 ∨ byteAt f 1 = 0x02) →
    ∃ r : DecodeResult, exec (.decode (a ++ f ++ b)) s = .next { s with output := .triple r } ∧
      (r.frameType = none → r.consumed ≤ a.length)

/-! ### Receive buffer -/

/-- R130 (the spec's decisions D2, D3). `RX.PUSH` completes exactly when the buffer keeps within its capacity, appending
every byte at the end; otherwise it is refused. -/
def Obligations.RxPushAppendsOrRefuses : Prop :=
  ∀ (v : List Byte) (s : State),
    ((∀ cap : Nat, s.cfg.rxbufCap = some cap → s.rxbuf.length + v.length ≤ cap) →
      exec (.rxPush v) s = .next { s with rxbuf := s.rxbuf ++ v, output := .nothing }) ∧
    (∀ cap : Nat, s.cfg.rxbufCap = some cap → cap < s.rxbuf.length + v.length →
      exec (.rxPush v) s = .refused .rxOverflow)

/-- R131 (the spec's decision D2). `RX.STEP` completes in every state: it presents what `DECODE rxbuf` presents and drops
that many bytes from the front. -/
def Obligations.RxStepIsDecodeThenDrop : Prop :=
  ∀ s : State, ∃ r : DecodeResult,
    exec (.decode s.rxbuf) s = .next { s with output := .triple r } ∧
    exec .rxStep s = .next { s with rxbuf := s.rxbuf.drop r.consumed, output := .triple r }

/-- R184. On a resynchronize outcome `DECODE` changes nothing and `RX.STEP` leaves exactly the state before it minus the
false head. -/
def Obligations.ResyncDropsOnlyFalseHead : Prop :=
  ∀ s : State,
    (examine s.cfg.strictType s.rxbuf = .badLength ∨ examine s.cfg.strictType s.rxbuf = .badCrc ∨
      examine s.cfg.strictType s.rxbuf = .badTail) →
    exec (.decode s.rxbuf) s = .next { s with output := .triple ⟨none, none, 1⟩ } ∧
    ∃ rest : List Byte, s.rxbuf = 0xAA :: rest ∧
      exec .rxStep s = .next { s with rxbuf := rest, output := .triple ⟨none, none, 1⟩ }

/-- R132 (the spec's decision D13). `RX.DRAIN` satisfies the rule's loop: one `RX.STEP`, then stop if it returned a frame
or consumed nothing, else go on from the state it left. -/
def Obligations.RxDrainFollowsLoop : Prop :=
  ∀ (s t : State) (r : DecodeResult), exec .rxStep s = .next t → t.output = .triple r →
    ((r.frameType ≠ none ∨ r.consumed = 0) → exec .rxDrain s = .next t) ∧
    (r.frameType = none → 0 < r.consumed → exec .rxDrain s = exec .rxDrain t)

/-- R133, R78 (derived by the spec; the request queue is the model's, log entry 1). `RX.DRAIN` completes in every state, and is at most `len(rxbuf) + 1` steps of
`RX.STEP`, run by the machine. -/
def Obligations.RxDrainIsBoundedRunOfRxStep : Prop :=
  ∀ s : State, ∃ (n : Nat) (t : State), 1 ≤ n ∧ n ≤ s.rxbuf.length + 1 ∧
    exec .rxDrain s = .next t ∧
    run n { s with requests := List.replicate n .rxStep ++ s.requests } = .next t

/-- R226 (derived by the spec). When `RX.DRAIN` returns no frame, nothing more can be consumed without new bytes and at
most 14 bytes are left. -/
def Obligations.DrainedBufferHoldsAtMostFourteen : Prop :=
  ∀ (s t : State) (r : DecodeResult), exec .rxDrain s = .next t → t.output = .triple r → r.frameType = none →
    r.consumed = 0 ∧ t.rxbuf.length ≤ 14 ∧ exec .rxStep t = .next t

/-- R139 with R132 (derived by the spec). `RX.DRAIN` delivers the valid frame at the first
head, whole, and leaves what follows it. -/
def Obligations.DrainDeliversEarliestFrame : Prop :=
  ∀ (s : State) (g f b : List Byte), validFrame f = true → 0xAA ∉ g →
    (s.cfg.strictType = false ∨ byteAt f 1 = 0x01 ∨ byteAt f 1 = 0x02) →
    s.rxbuf = g ++ f ++ b →
    exec .rxDrain s = .next
      { s with rxbuf := b, output := .triple ⟨some (byteAt f 1), some (slice f 4 (f.length - 3)), f.length⟩ }

/-- R54 (the spec's decision D2). Bytes leave the front in the order they were appended: after any instruction but
`RESET` the buffer is an end piece of what it held followed by what was pushed. -/
def Obligations.StreamOrderIsPreserved : Prop :=
  ∀ (i : Instr) (s t : State), i ≠ .reset → exec i s = .next t → t.rxbuf <:+ s.rxbuf ++ pushedBytes i

/-- R126, R129, R130, R131 together (program P3; the request queue is the model's, log entry 1). However a valid frame is cut into non-empty
pieces, pushing and stepping piece by piece from an empty buffer delivers it at the last step and loses nothing. -/
def Obligations.FrameInPiecesIsDelivered : Prop :=
  ∀ (s : State) (f : List Byte) (pieces : List (List Byte)) (rest : List Request),
    s.rxbuf = [] → s.cfg.wf = true → (s.cfg.strictType = false ∨ byteAt f 1 = 0x01 ∨ byteAt f 1 = 0x02) →
    validFrame f = true →
    pieces.flatten = f → (∀ p ∈ pieces, p ≠ []) →
    s.requests = pieces.flatMap (fun p => [.rxPush p, .rxStep]) ++ rest →
    run (2 * pieces.length) s = .next
      { s with requests := rest, output := .triple ⟨some (byteAt f 1), some (slice f 4 (f.length - 3)), f.length⟩ }

/-! ### Reset, steps, invariant, isolation -/

/-- R31, R211 (the spec's decision D10). The initial state's two registers. -/
def Obligations.InitialRegisterValues : Prop :=
  State.reset.crcAcc = 0xFFFF ∧ State.reset.rxbuf = []

/-- R210 (the spec's decision D10; that issued requests and parameters stay is the model's choice, log entry 8). `RESET`
completes in every state and sets both registers. -/
def Obligations.ResetOperationCompletes : Prop :=
  ∀ s : State, exec .reset s = .next { s with crcAcc := 0xFFFF, rxbuf := [], output := .nothing }

/-- R51, R231 (the queue is the model's, log entry 1). A step performs the oldest issued operation; with none issued the
state does not change. -/
def Obligations.StepPerformsOldestRequest : Prop :=
  ∀ s : State,
    (s.requests = [] → step s = .next s) ∧
    (∀ (r : Request) (rest : List Request), s.requests = r :: rest →
      step s = exec r.instr { s with requests := rest })

/-- R74, R129, R131. When `RX.STEP` is the issued operation and the table decoder reads the instruction `i` at the front
of `rxbuf`, the step is `exec i` (with the request taken from the queue), under either value of `STRICT_TYPE`, and the
bytes left are those after the frame. -/
def Obligations.StepRunsDecodedFrame : Prop :=
  ∀ (s : State) (requests : List Request) (i : Instr) (rest : List Byte),
    s.requests = .rxStep :: requests → decodeFrame s.rxbuf = .ok (i, rest) →
    step s = exec i { s with requests := requests } ∧
    ∃ t : State, step s = .next t ∧ t.rxbuf = rest

/-- R74, R69. Refinement both ways: `RX.STEP` delivers a frame of an assigned type exactly when the table decoder reads a
frame kind there, and then its next state is that of the frame kind's instruction (that such an instruction is the frame's
delivery is the model's choice, log entry 4). -/
def Obligations.RxStepDeliversExactlyTableFrames : Prop :=
  ∀ (s u : State) (type : FrameType) (payload : List Byte),
    (exec .rxStep s = .next u ∧ u.output = .triple ⟨some type.code, some payload, 7 + payload.length⟩) ↔
    ∃ (i : Instr) (rest : List Byte), decodeFrame s.rxbuf = .ok (i, rest) ∧ i.frame? = some (type, payload) ∧
      exec i s = .next u

/-- The invariant of R32 holds of the initial state. -/
def Obligations.InitialStateMeetsInvariant : Prop := State.reset.Inv

/-- R32 (derived by the spec). Every step from a state that meets the invariant leads to one that meets it. -/
def Obligations.StepKeepsInvariant : Prop :=
  ∀ s t : State, s.Inv → step s = .next t → t.Inv

/-- R32 over every behaviour of the environment (the queue and the place of the parameters are the model's, log entries 1
and 3): from the initial state with any parameters R11 allows, whatever
operations are issued between steps, the buffer stays within its capacity and the parameters stay as they were. -/
def Obligations.ReachableBufferWithinCapacity : Prop :=
  ∀ (c : Config) (t : State), c.wf = true → Reaches { State.reset with cfg := c } t →
    t.cfg = c ∧ ∀ cap : Nat, c.rxbufCap = some cap → t.rxbuf.length ≤ cap

/-- R187, R180 (the spec's decisions D6, D7). An instruction completes exactly when it is inside its contract, and is
refused otherwise by one of the three names; nothing else ever happens. -/
def Obligations.RefusedExactlyOutsideContract : Prop :=
  ∀ (i : Instr) (s : State),
    (inContract i s = true ↔ ∃ t : State, exec i s = .next t) ∧
    (inContract i s = false ↔
      exec i s = .refused .badType ∨ exec i s = .refused .payloadTooLong ∨ exec i s = .refused .rxOverflow)

/-- R21, R22 (the spec's decisions D1, D2, D8). Only `CRC.INIT`, `CRC.BYTE` and `RESET` write `CRC.ACC`; only `RX.PUSH`,
`RX.STEP`, `RX.DRAIN`, `RESET` and a delivered frame write `rxbuf`. The clauses on the request queue, on the parameters
and on a frame kind as a delivery are the model's choices (log entries 1, 3 and 4) and no rule of the spec. -/
def Obligations.RegistersHaveOnlyNamedWriters : Prop :=
  ∀ (i : Instr) (s t : State), exec i s = .next t →
    (t.crcAcc ≠ s.crcAcc → i = .crcInit ∨ (∃ b : Byte, i = .crcByte b) ∨ i = .reset) ∧
    (t.rxbuf ≠ s.rxbuf →
      (∃ v : List Byte, i = .rxPush v) ∨ i = .rxStep ∨ i = .rxDrain ∨ i = .reset ∨ i.frame?.isSome = true) ∧
    t.cfg = s.cfg ∧ t.requests = s.requests

/-- R20 (the spec's decisions D1, D2). `CRC16`, `ENCODE` and `DECODE` read neither register and write neither: what they
do in one state they do in any other with the same parameters. -/
def Obligations.PureOperationsIgnoreRegisters : Prop :=
  ∀ (i : Instr) (s s' : State) (o : Output), s.cfg = s'.cfg →
    ((∃ d : List Byte, i = .crc16 d) ∨ (∃ (t : Byte) (p : List Byte), i = .encode t p) ∨ (∃ b : List Byte, i = .decode b)) →
    (exec i s = .next { s with output := o } ↔ exec i s' = .next { s' with output := o }) ∧
    (∀ t : State, exec i s = .next t → t = { s with output := t.output })

/-- R21, R227 (the spec's decision D8). The accumulator reaches no instruction but those of the checksum unit: under any
other instruction than the four, a different accumulator changes nothing else. -/
def Obligations.AccumulatorIsIsolated : Prop :=
  ∀ (i : Instr) (s : State) (a : U16),
    i ≠ .crcInit → (∀ b : Byte, i ≠ .crcByte b) → i ≠ .crcRead → i ≠ .reset →
    exec i { s with crcAcc := a } = mapNext (fun t => { t with crcAcc := a }) (exec i s)

/-- R20, R22 (the spec's decisions D1, D2). The receive buffer reaches neither the checksum unit nor the pure functions
`CRC16`, `ENCODE` and `DECODE`: with a different buffer they do the same and leave it. -/
def Obligations.BufferIsIsolatedFromChecksum : Prop :=
  ∀ (i : Instr) (s : State) (buf : List Byte),
    (i = .crcInit ∨ (∃ b : Byte, i = .crcByte b) ∨ i = .crcRead ∨ (∃ d : List Byte, i = .crc16 d) ∨
      (∃ (t : Byte) (p : List Byte), i = .encode t p) ∨ (∃ b : List Byte, i = .decode b)) →
    exec i { s with rxbuf := buf } = mapNext (fun t => { t with rxbuf := buf }) (exec i s)

/-- R231, R227 over whole runs (derived by the spec; decision D8; the queue is the model's, log entry 1). However requests that write the accumulator are
interleaved with others, the accumulator ends as if those alone had been issued. -/
def Obligations.InterleavingKeepsAccumulator : Prop :=
  ∀ (s t : State) (requests : List Request),
    run requests.length { s with requests := requests } = .next t →
    ∃ u : State,
      run (requests.filter Request.writesAcc).length { s with requests := requests.filter Request.writesAcc } = .next u ∧
      u.crcAcc = t.crcAcc
end

