-- ==== Sys2Proof/Laws/State.lean ====
section
/-!
SUPPORT. Laws/State.lean: one lemma per field per update of the state, each by `rfl`, so that no later proof unfolds a
record update.
-/
namespace Sys2Proof.Machine

@[simp] theorem State.present_crcAcc (s : State) (o : Output) : (s.present o).crcAcc = s.crcAcc := rfl
@[simp] theorem State.present_rxbuf (s : State) (o : Output) : (s.present o).rxbuf = s.rxbuf := rfl
@[simp] theorem State.present_cfg (s : State) (o : Output) : (s.present o).cfg = s.cfg := rfl
@[simp] theorem State.present_requests (s : State) (o : Output) : (s.present o).requests = s.requests := rfl
@[simp] theorem State.present_output (s : State) (o : Output) : (s.present o).output = o := rfl

@[simp] theorem State.setAcc_crcAcc (s : State) (v : U16) : (s.setAcc v).crcAcc = v := rfl
@[simp] theorem State.setAcc_rxbuf (s : State) (v : U16) : (s.setAcc v).rxbuf = s.rxbuf := rfl
@[simp] theorem State.setAcc_cfg (s : State) (v : U16) : (s.setAcc v).cfg = s.cfg := rfl
@[simp] theorem State.setAcc_requests (s : State) (v : U16) : (s.setAcc v).requests = s.requests := rfl
@[simp] theorem State.setAcc_output (s : State) (v : U16) : (s.setAcc v).output = s.output := rfl

@[simp] theorem State.append_crcAcc (s : State) (v : List Byte) : (s.append v).crcAcc = s.crcAcc := rfl
@[simp] theorem State.append_rxbuf (s : State) (v : List Byte) : (s.append v).rxbuf = s.rxbuf ++ v := rfl
@[simp] theorem State.append_cfg (s : State) (v : List Byte) : (s.append v).cfg = s.cfg := rfl
@[simp] theorem State.append_requests (s : State) (v : List Byte) : (s.append v).requests = s.requests := rfl
@[simp] theorem State.append_output (s : State) (v : List Byte) : (s.append v).output = s.output := rfl

@[simp] theorem State.consume_crcAcc (s : State) (k : Nat) : (s.consume k).crcAcc = s.crcAcc := rfl
@[simp] theorem State.consume_rxbuf (s : State) (k : Nat) : (s.consume k).rxbuf = s.rxbuf.drop k := rfl
@[simp] theorem State.consume_cfg (s : State) (k : Nat) : (s.consume k).cfg = s.cfg := rfl
@[simp] theorem State.consume_requests (s : State) (k : Nat) : (s.consume k).requests = s.requests := rfl
@[simp] theorem State.consume_output (s : State) (k : Nat) : (s.consume k).output = s.output := rfl

@[simp] theorem State.clear_crcAcc (s : State) : (s.clear).crcAcc = crcStart := rfl
@[simp] theorem State.clear_rxbuf (s : State) : (s.clear).rxbuf = [] := rfl
@[simp] theorem State.clear_cfg (s : State) : (s.clear).cfg = s.cfg := rfl
@[simp] theorem State.clear_requests (s : State) : (s.clear).requests = s.requests := rfl
@[simp] theorem State.clear_output (s : State) : (s.clear).output = s.output := rfl

@[simp] theorem State.resync_crcAcc (s : State) : (s.resync).crcAcc = s.crcAcc := rfl
@[simp] theorem State.resync_rxbuf (s : State) : (s.resync).rxbuf = s.rxbuf.drop 1 := rfl
@[simp] theorem State.resync_cfg (s : State) : (s.resync).cfg = s.cfg := rfl
@[simp] theorem State.resync_requests (s : State) : (s.resync).requests = s.requests := rfl
@[simp] theorem State.resync_output (s : State) : (s.resync).output = s.output := rfl

@[simp] theorem State.issue_crcAcc (s : State) (r : Request) : (s.issue r).crcAcc = s.crcAcc := rfl
@[simp] theorem State.issue_rxbuf (s : State) (r : Request) : (s.issue r).rxbuf = s.rxbuf := rfl
@[simp] theorem State.issue_cfg (s : State) (r : Request) : (s.issue r).cfg = s.cfg := rfl
@[simp] theorem State.issue_requests (s : State) (r : Request) : (s.issue r).requests = s.requests ++ [r] := rfl
@[simp] theorem State.issue_output (s : State) (r : Request) : (s.issue r).output = s.output := rfl

@[simp] theorem State.deliver_crcAcc (s : State) (ty : FrameType) (p : List Byte) : (s.deliver ty p).crcAcc = s.crcAcc := rfl
@[simp] theorem State.deliver_rxbuf (s : State) (ty : FrameType) (p : List Byte) : (s.deliver ty p).rxbuf = s.rxbuf.drop (7 + p.length) := rfl
@[simp] theorem State.deliver_cfg (s : State) (ty : FrameType) (p : List Byte) : (s.deliver ty p).cfg = s.cfg := rfl
@[simp] theorem State.deliver_requests (s : State) (ty : FrameType) (p : List Byte) : (s.deliver ty p).requests = s.requests := rfl
@[simp] theorem State.deliver_output (s : State) (ty : FrameType) (p : List Byte) : (s.deliver ty p).output = .triple ⟨some ty.code, some p, 7 + p.length⟩ := rfl

@[simp] theorem State.rxStep_crcAcc (s : State) : (s.rxStep).crcAcc = s.crcAcc := rfl
@[simp] theorem State.rxStep_rxbuf (s : State) : (s.rxStep).rxbuf = s.rxbuf.drop (decode s.cfg.strictType s.rxbuf).consumed := rfl
@[simp] theorem State.rxStep_cfg (s : State) : (s.rxStep).cfg = s.cfg := rfl
@[simp] theorem State.rxStep_requests (s : State) : (s.rxStep).requests = s.requests := rfl
@[simp] theorem State.rxStep_output (s : State) : (s.rxStep).output = .triple (decode s.cfg.strictType s.rxbuf) := rfl

end Sys2Proof.Machine
end

