-- ==== Sys2Proof/Laws/Ops.lean ====
section
/-!
SUPPORT. Laws/Ops.lean: the small lemmas of the operand forms, of the buffer's reads and of its canonical form.
-/
namespace Sys2Proof.Machine

theorem be16_toNat (h l : Byte) : (be16 h l).toNat = 256 * h.toNat + l.toNat := by
  have := h.isLt
  have := l.isLt
  simp only [be16, BitVec.toNat_ofNat]
  omega

theorem hi8_toNat (v : U16) : (hi8 v).toNat = v.toNat / 256 := by
  have := v.isLt
  simp [hi8, BitVec.extractLsb'_toNat, Nat.shiftRight_eq_div_pow]
  omega

theorem lo8_toNat (v : U16) : (lo8 v).toNat = v.toNat % 256 := by
  simp [lo8, BitVec.extractLsb'_toNat]

/-- The two bytes of a 16-bit value, high byte first, give it back (R40, R41). -/
@[simp] theorem be16_hi8_lo8 (v : U16) : be16 (hi8 v) (lo8 v) = v := by
  apply BitVec.eq_of_toNat_eq
  rw [be16_toNat, hi8_toNat, lo8_toNat]
  omega

theorem be16_inj {h l h' l' : Byte} : be16 h l = be16 h' l' ↔ h = h' ∧ l = l' := by
  refine ⟨fun e => ?_, fun ⟨a, b⟩ => by rw [a, b]⟩
  have e' := congrArg BitVec.toNat e
  rw [be16_toNat, be16_toNat] at e'
  have := l.isLt
  have := l'.isLt
  exact ⟨BitVec.eq_of_toNat_eq (by omega), BitVec.eq_of_toNat_eq (by omega)⟩

theorem assignedType_iff (t : Byte) : assignedType t = true ↔ t = 0x01 ∨ t = 0x02 := by
  simp [assignedType, FrameType.code]

theorem assignedType_code (ty : FrameType) : assignedType ty.code = true := by
  cases ty <;> rfl

theorem byteAt_eq_getElem (b : List Byte) (i : Nat) (h : i < b.length) : byteAt b i = b[i] := by
  simp [byteAt, h]

@[simp] theorem slice_length (b : List Byte) (i j : Nat) : (slice b i j).length = min (j - i) (b.length - i) := by
  simp [slice]

/-- A defined `MemRead` answers exactly `n` bytes (R17). -/
theorem State.memRead_length {s : State} {off n : Nat} {v : List Byte} (h : s.memRead off n = some v) :
    v.length = n := by
  unfold State.memRead at h
  split at h
  · cases h
    simp
    omega
  · cases h

/-- Every canonical numbering is in canonical form; so the buffer's cells are, after any operation and at reset. -/
theorem Memory.wfFrom_cellsFrom (k : Nat) (b : List Byte) : Memory.wfFrom k (Memory.cellsFrom k b) = true := by
  induction b generalizing k with
  | nil => rfl
  | cons x xs ih => simp [Memory.cellsFrom, Memory.wfFrom, ih]

theorem State.memory_wf (s : State) : Memory.wf s.memory = true := Memory.wfFrom_cellsFrom 0 s.rxbuf

theorem reset_memory : State.reset.memory = [] := rfl

/-- The cells list each byte at its offset: equal memories are equal buffers. -/
theorem Memory.cellsFrom_map_snd (k : Nat) (b : List Byte) : (Memory.cellsFrom k b).map Prod.snd = b := by
  induction b generalizing k with
  | nil => rfl
  | cons x xs ih => simp [Memory.cellsFrom, ih]

theorem fits_iff (c : Config) (n : Nat) : c.fits n = true ↔ ∀ cap, c.rxbufCap = some cap → n ≤ cap := by
  unfold Config.fits
  split <;> simp_all

/-- Fewer bytes fit where more do: the capacity is an upper bound only. -/
theorem fits_mono {c : Config} {m n : Nat} (h : m ≤ n) (hn : c.fits n = true) : c.fits m = true := by
  rw [fits_iff] at *
  exact fun cap e => h.trans (hn cap e)

/-- Any frame fits a buffer whose parameter meets R11's bound. -/
theorem fits_of_wf {c : Config} {n : Nat} (h : c.wf = true) (hn : n ≤ 15) : c.fits n = true := by
  rw [fits_iff]
  intro cap e
  simp [Config.wf, e] at h
  omega

end Sys2Proof.Machine
end

