-- ==== Sys2Proof/Laws/Decoder.lean ====
section
/-!
SUPPORT. Laws/Decoder.lean: what one evaluation of the decoder can do, once for every later proof: its value on each shape
of buffer (R120 step by step), and that the shapes are all there are.
-/
namespace Sys2Proof.Machine

theorem examine_short (strict : Bool) {buf : List Byte} (h : buf.length < 4) : examine strict buf = .needHeader := by
  simp [examine, h]

theorem examine_noHead (strict : Bool) {buf : List Byte} (h : 4 ≤ buf.length) (hn : headByte ∉ buf) :
    examine strict buf = .noHead buf.length := by
  have hf : findHead buf = none := by
    simp only [findHead, List.findIdx?_eq_none_iff, beq_eq_false_iff_ne]
    exact fun x hx e => hn (e ▸ hx)
  simp [examine, h, hf]

theorem findHead_append {g rest : List Byte} (hn : headByte ∉ g) : findHead (g ++ headByte :: rest) = some g.length := by
  induction g with
  | nil => simp [findHead, List.findIdx?_cons]
  | cons x xs ih =>
    simp only [List.mem_cons, not_or] at hn
    have hx : (x == headByte) = false := by simpa using fun e => hn.1 e.symm
    have ih' := ih hn.2
    unfold findHead at ih' ⊢
    rw [List.cons_append, List.findIdx?_cons, hx, ih']
    rfl

theorem examine_skipPrefix (strict : Bool) {g rest : List Byte} (hg : g ≠ []) (hn : headByte ∉ g)
    (h : 4 ≤ (g ++ headByte :: rest).length) : examine strict (g ++ headByte :: rest) = .skipPrefix g.length := by
  have hpos : 0 < g.length := List.length_pos_iff.mpr hg
  unfold examine
  rw [dif_pos (by simpa using h), findHead_append hn]
  simp [hpos]

/-- With a head at offset 0 and a header, the verdict is steps 5 to 9 (step 4 does not fire: R123). -/
theorem examine_head (strict : Bool) (t h l : Byte) (rest : List Byte) :
    examine strict (headByte :: t :: h :: l :: rest) =
      judgeHead strict (headByte :: t :: h :: l :: rest) (by simp) := by
  have hf : findHead (headByte :: t :: h :: l :: rest) = some 0 := findHead_append (g := []) (by simp)
  unfold examine
  rw [dif_pos (by simp), hf]
  simp

theorem examine_badLength (strict : Bool) {t h l : Byte} (rest : List Byte) (hL : 8 < (be16 h l).toNat) :
    examine strict (headByte :: t :: h :: l :: rest) = .badLength := by
  rw [examine_head]
  simp [judgeHead, hL]

theorem examine_needBody (strict : Bool) {t h l : Byte} {rest : List Byte} (hL : (be16 h l).toNat ≤ 8)
    (hr : rest.length < 3 + (be16 h l).toNat) : examine strict (headByte :: t :: h :: l :: rest) = .needBody := by
  rw [examine_head]
  have h1 : ¬ 8 < (be16 h l).toNat := by omega
  have h2 : ¬ 7 + (be16 h l).toNat ≤ rest.length + 1 + 1 + 1 + 1 := by omega
  simp [judgeHead, h1, h2]

/-- The verdict on a complete candidate: the CRC, then the tail, then (under `STRICT_TYPE`) the type (R120 steps 7 to 9). -/
theorem examine_complete (strict : Bool) {t h l ch cl tail : Byte} {p : List Byte} (rest : List Byte)
    (hL : (be16 h l).toNat ≤ 8) (hp : p.length = (be16 h l).toNat) :
    examine strict (headByte :: t :: h :: l :: (p ++ ch :: cl :: tail :: rest)) =
      if crc16 p ≠ be16 ch cl then .badCrc
      else if tail ≠ tailByte then .badTail
      else if strict && !assignedType t then .badType
      else .frame t p := by
  rw [examine_head]
  have h1 : ¬ 8 < (be16 h l).toNat := by omega
  have e1 : ∀ n, 4 + n = n + 1 + 1 + 1 + 1 := by omega
  have e2 : ∀ n, 5 + n = (n + 1) + 1 + 1 + 1 + 1 := by omega
  have e3 : ∀ n, 6 + n = (n + 2) + 1 + 1 + 1 + 1 := by omega
  have hs : slice (headByte :: t :: h :: l :: (p ++ ch :: cl :: tail :: rest)) 4 (4 + p.length) = p := by
    simp [slice]
  unfold judgeHead
  simp only [List.getElem_cons_succ, List.getElem_cons_zero, maxPayload, overhead, List.length_cons, List.length_append]
  rw [if_neg h1, dif_pos (by omega)]
  unfold judgeBody
  simp only [← hp, hs]
  simp only [e1, e2, e3, List.getElem_cons_succ]
  simp

/-- The shapes of a buffer, one for each outcome of R181, with its verdict: every evaluation of the decoder is one. -/
inductive Examined (strict : Bool) : List Byte → Verdict → Prop where
  | needHeader {buf : List Byte} (h : buf.length < 4) : Examined strict buf .needHeader
  | noHead {buf : List Byte} (h : 4 ≤ buf.length) (hn : headByte ∉ buf) : Examined strict buf (.noHead buf.length)
  | skipPrefix {g rest : List Byte} (hg : g ≠ []) (hn : headByte ∉ g) (h : 4 ≤ (g ++ headByte :: rest).length) :
      Examined strict (g ++ headByte :: rest) (.skipPrefix g.length)
  | badLength {t h l : Byte} {rest : List Byte} (hL : 8 < (be16 h l).toNat) :
      Examined strict (headByte :: t :: h :: l :: rest) .badLength
  | needBody {t h l : Byte} {rest : List Byte} (hL : (be16 h l).toNat ≤ 8) (hr : rest.length < 3 + (be16 h l).toNat) :
      Examined strict (headByte :: t :: h :: l :: rest) .needBody
  | badCrc {t h l ch cl tail : Byte} {p rest : List Byte} (hL : (be16 h l).toNat ≤ 8)
      (hp : p.length = (be16 h l).toNat) (hc : crc16 p ≠ be16 ch cl) :
      Examined strict (headByte :: t :: h :: l :: (p ++ ch :: cl :: tail :: rest)) .badCrc
  | badTail {t h l ch cl tail : Byte} {p rest : List Byte} (hL : (be16 h l).toNat ≤ 8)
      (hp : p.length = (be16 h l).toNat) (hc : crc16 p = be16 ch cl) (ht : tail ≠ tailByte) :
      Examined strict (headByte :: t :: h :: l :: (p ++ ch :: cl :: tail :: rest)) .badTail
  | badType {t h l ch cl : Byte} {p rest : List Byte} (hL : (be16 h l).toNat ≤ 8)
      (hp : p.length = (be16 h l).toNat) (hc : crc16 p = be16 ch cl) (hs : strict = true) (ha : assignedType t = false) :
      Examined strict (headByte :: t :: h :: l :: (p ++ ch :: cl :: tailByte :: rest)) .badType
  | frame {t h l ch cl : Byte} {p rest : List Byte} (hL : (be16 h l).toNat ≤ 8)
      (hp : p.length = (be16 h l).toNat) (hc : crc16 p = be16 ch cl) (ha : strict = false ∨ assignedType t = true) :
      Examined strict (headByte :: t :: h :: l :: (p ++ ch :: cl :: tailByte :: rest)) (.frame t p)

/-- Split a buffer at its first head, if it has one. -/
theorem split_at_head (buf : List Byte) :
    headByte ∉ buf ∨ ∃ g rest, buf = g ++ headByte :: rest ∧ headByte ∉ g := by
  induction buf with
  | nil => exact .inl (by simp)
  | cons x xs ih =>
    by_cases hx : x = headByte
    · exact .inr ⟨[], xs, by simp [hx], by simp⟩
    · rcases ih with hn | ⟨g, rest, rfl, hn⟩
      · exact .inl (by simp only [List.mem_cons, not_or]; exact ⟨fun e => hx e.symm, hn⟩)
      · exact .inr ⟨x :: g, rest, rfl, by simp only [List.mem_cons, not_or]; exact ⟨fun e => hx e.symm, hn⟩⟩

/-- The inversion lemma of the decoder. -/
theorem examined (strict : Bool) (buf : List Byte) : Examined strict buf (examine strict buf) := by
  by_cases h4 : buf.length < 4
  · rw [examine_short strict h4]
    exact .needHeader h4
  rcases split_at_head buf with hn | ⟨g, rest, rfl, hn⟩
  · rw [examine_noHead strict (by omega) hn]
    exact .noHead (by omega) hn
  by_cases hg : g = []
  · subst hg
    match rest, h4 with
    | t :: h :: l :: body, _ =>
      simp only [List.nil_append]
      by_cases hL : 8 < (be16 h l).toNat
      · rw [examine_badLength strict body hL]
        exact .badLength hL
      by_cases hr : body.length < 3 + (be16 h l).toNat
      · rw [examine_needBody strict (by omega) hr]
        exact .needBody (by omega) hr
      have hlen : (body.take (be16 h l).toNat).length = (be16 h l).toNat := by simp; omega
      have hd : 3 ≤ (body.drop (be16 h l).toNat).length := by simp; omega
      rw [← List.take_append_drop (be16 h l).toNat body]
      generalize body.take (be16 h l).toNat = p at *
      generalize body.drop (be16 h l).toNat = q at *
      match q, hd with
      | ch :: cl :: tail :: rest, _ =>
        have hL' : (be16 h l).toNat ≤ 8 := by omega
        rw [examine_complete strict rest hL' hlen]
        by_cases hc : crc16 p = be16 ch cl
        · by_cases ht : tail = tailByte
          · subst ht
            by_cases hs : (strict && !assignedType t) = true
            · simp only [hc, ne_eq, not_true_eq_false, if_false, hs, if_true]
              simp only [Bool.and_eq_true, Bool.not_eq_true'] at hs
              exact .badType hL' hlen hc hs.1 hs.2
            · simp only [hc, ne_eq, not_true_eq_false, if_false, hs]
              refine .frame hL' hlen hc ?_
              cases strict <;> simp_all
          · simp only [hc, ne_eq, not_true_eq_false, if_false, ht, not_false_eq_true, if_true]
            exact .badTail hL' hlen hc ht
        · simp only [ne_eq, hc, not_false_eq_true, if_true]
          exact .badCrc hL' hlen hc
    | [], h => simp at h
    | [_], h => simp at h
    | [_, _], h => simp at h
  · rw [examine_skipPrefix strict hg hn (by omega)]
    exact .skipPrefix hg hn (by omega)

/-- R184: `RX.STEP` on an outcome of the resynchronize class is the shared operation `resync`. -/
theorem rxStep_of_resynchronize {s : State} (h : (examine s.cfg.strictType s.rxbuf).class = .resynchronize) :
    s.rxStep = s.resync.present (.triple ⟨none, none, 1⟩) := by
  have hr : decode s.cfg.strictType s.rxbuf = ⟨none, none, 1⟩ := by
    unfold decode
    generalize examine s.cfg.strictType s.rxbuf = v at h
    cases v <;> first | rfl | cases h
  simp only [State.rxStep, hr, State.resync]

/-- R181: the step the spec calls unreachable is. -/
theorem examine_ne_needHeaderAtHead (strict : Bool) (buf : List Byte) : examine strict buf ≠ .needHeaderAtHead := by
  intro e
  have h := examined strict buf
  rw [e] at h
  cases h

end Sys2Proof.Machine
end

