-- ==== Sys2Proof/Laws/PerInstr.lean ====
section
/-!
SUPPORT. Laws/PerInstr.lean: the family EncodedLength, one lemma per constructor of Instr: the encoding has the size that
spec/opcode_table.json gives the row (`size_bytes`; 0 for an operation, whose pattern has zero width, R76).
-/
namespace Sys2Proof.Laws.EncodedLength

/-- The row's `size_bytes`. -/
def size : Instr → Nat
  | .frameCmdL0 => 7
  | .frameCmdL1 _ => 8
  | .frameCmdL2 _ _ => 9
  | .frameCmdL3 _ _ _ => 10
  | .frameCmdL4 _ _ _ _ => 11
  | .frameCmdL5 _ _ _ _ _ => 12
  | .frameCmdL6 _ _ _ _ _ _ => 13
  | .frameCmdL7 _ _ _ _ _ _ _ => 14
  | .frameCmdL8 _ _ _ _ _ _ _ _ => 15
  | .frameDataL0 => 7
  | .frameDataL1 _ => 8
  | .frameDataL2 _ _ => 9
  | .frameDataL3 _ _ _ => 10
  | .frameDataL4 _ _ _ _ => 11
  | .frameDataL5 _ _ _ _ _ => 12
  | .frameDataL6 _ _ _ _ _ _ => 13
  | .frameDataL7 _ _ _ _ _ _ _ => 14
  | .frameDataL8 _ _ _ _ _ _ _ _ => 15
  | .crc16 _ => 0
  | .crcInit => 0
  | .crcByte _ => 0
  | .crcRead => 0
  | .encode _ _ => 0
  | .decode _ => 0
  | .rxPush _ => 0
  | .rxStep => 0
  | .rxDrain => 0
  | .reset => 0

/-- `encode` gives exactly the row's number of bytes. -/
def Statement (i : Instr) : Prop := (encode i).length = size i

theorem frameCmdL0 : Statement .frameCmdL0 := rfl
theorem frameCmdL1 (p0 : Byte) : Statement (.frameCmdL1 p0) := rfl
theorem frameCmdL2 (p0 p1 : Byte) : Statement (.frameCmdL2 p0 p1) := rfl
theorem frameCmdL3 (p0 p1 p2 : Byte) : Statement (.frameCmdL3 p0 p1 p2) := rfl
theorem frameCmdL4 (p0 p1 p2 p3 : Byte) : Statement (.frameCmdL4 p0 p1 p2 p3) := rfl
theorem frameCmdL5 (p0 p1 p2 p3 p4 : Byte) : Statement (.frameCmdL5 p0 p1 p2 p3 p4) := rfl
theorem frameCmdL6 (p0 p1 p2 p3 p4 p5 : Byte) : Statement (.frameCmdL6 p0 p1 p2 p3 p4 p5) := rfl
theorem frameCmdL7 (p0 p1 p2 p3 p4 p5 p6 : Byte) : Statement (.frameCmdL7 p0 p1 p2 p3 p4 p5 p6) := rfl
theorem frameCmdL8 (p0 p1 p2 p3 p4 p5 p6 p7 : Byte) : Statement (.frameCmdL8 p0 p1 p2 p3 p4 p5 p6 p7) := rfl
theorem frameDataL0 : Statement .frameDataL0 := rfl
theorem frameDataL1 (p0 : Byte) : Statement (.frameDataL1 p0) := rfl
theorem frameDataL2 (p0 p1 : Byte) : Statement (.frameDataL2 p0 p1) := rfl
theorem frameDataL3 (p0 p1 p2 : Byte) : Statement (.frameDataL3 p0 p1 p2) := rfl
theorem frameDataL4 (p0 p1 p2 p3 : Byte) : Statement (.frameDataL4 p0 p1 p2 p3) := rfl
theorem frameDataL5 (p0 p1 p2 p3 p4 : Byte) : Statement (.frameDataL5 p0 p1 p2 p3 p4) := rfl
theorem frameDataL6 (p0 p1 p2 p3 p4 p5 : Byte) : Statement (.frameDataL6 p0 p1 p2 p3 p4 p5) := rfl
theorem frameDataL7 (p0 p1 p2 p3 p4 p5 p6 : Byte) : Statement (.frameDataL7 p0 p1 p2 p3 p4 p5 p6) := rfl
theorem frameDataL8 (p0 p1 p2 p3 p4 p5 p6 p7 : Byte) : Statement (.frameDataL8 p0 p1 p2 p3 p4 p5 p6 p7) := rfl
theorem crc16 (data : List Byte) : Statement (.crc16 data) := rfl
theorem crcInit : Statement .crcInit := rfl
theorem crcByte (b : Byte) : Statement (.crcByte b) := rfl
theorem crcRead : Statement .crcRead := rfl
theorem encode (type : Byte) (payload : List Byte) : Statement (.encode type payload) := rfl
theorem decode (buf : List Byte) : Statement (.decode buf) := rfl
theorem rxPush (v : List Byte) : Statement (.rxPush v) := rfl
theorem rxStep : Statement .rxStep := rfl
theorem rxDrain : Statement .rxDrain := rfl
theorem reset : Statement .reset := rfl

/-- The family over every instruction. -/
theorem holds (i : Instr) : Statement i := by cases i <;> rfl

end Sys2Proof.Laws.EncodedLength
end

