-- ==== Sys2Proof/Laws/Run.lean ====
section
/-!
SUPPORT. Laws/Run.lean: one step of a run, by what the oldest request does.
-/
namespace Sys2Proof.Machine

theorem step_idle {s : State} (h : s.requests = []) : step s = .next s := by
  unfold step
  rw [h]

theorem step_cons {s : State} {r : Request} {rest : List Request} (h : s.requests = r :: rest) :
    step s = exec r.instr { s with requests := rest } := by
  unfold step
  rw [h]

@[simp] theorem run_zero (s : State) : run 0 s = .next s := rfl

theorem run_succ_of_next {s t : State} {n : Nat} (h : step s = .next t) : run (n + 1) s = run n t := by
  have h' : Sys2Proof.core.step s = .next t := h
  simp only [run, Host.Core.run, h']
  rfl

/-- The oldest request, performed, is the first step of a run. -/
theorem run_succ_of_request {s t : State} {n : Nat} {r : Request} {rest : List Request} (h : s.requests = r :: rest)
    (he : exec r.instr { s with requests := rest } = .next t) : run (n + 1) s = run n t :=
  run_succ_of_next ((step_cons h).trans he)

end Sys2Proof.Machine
end

