-- ==== Sys2Proof/Tests/Slice0.lean ====
section
/-!
SUPPORT. Tests/Slice0.lean: the model's own tests. Every expected value is a vector of spec/95_test_vectors.md (its id in
the docstring) or is written out by hand from the spec's tables. `decide +kernel` is `decide` evaluated by the kernel.
The witnesses at the end meet the hypotheses of the obligations, one theorem for each statement that has some.
-/
namespace Sys2Proof.Tests
open Sys2Proof.Machine

/-- The next state of an outcome, for tests on its fields. -/
def next? : Result → Option State
  | .next t => some t
  | .fault _ => none
  | .refused _ => none

/-- The refusal of an outcome. -/
def refusal? : Result → Option Refusal
  | .next _ => none
  | .fault _ => none
  | .refused r => some r

theorem of_next? {r : Result} {t : State} (h : next? r = some t) : r = .next t := by
  cases r <;> simp_all [next?]

/-- A small state: reset with a given accumulator and buffer. -/
def at_ (acc : U16) (buf : List Byte) : State := { State.reset with crcAcc := acc, rxbuf := buf }

/-- The registers and output after one instruction. -/
def after (i : Instr) (s : State) : Option (U16 × List Byte × Output) :=
  (next? (exec i s)).map (fun t => (t.crcAcc, t.rxbuf, t.output))

/-! ### WellFormed: an ill-formed term for each check -/

theorem test_wf_refuses_bad_type : (Instr.encode 0x03 []).wf = false := by decide

theorem test_wf_refuses_long_payload : (Instr.encode 0x02 [1, 2, 3, 4, 5, 6, 7, 8, 9]).wf = false := by decide

theorem test_wf_accepts_longest_payload : (Instr.encode 0x02 [1, 2, 3, 4, 5, 6, 7, 8]).wf = true := by decide

/-! ### Decoding: each frame kind's word written out from R47 and R74, crc bytes from V-CRC and V-ENC -/

theorem test_word_frameCmdL0 :
    decodeFrame [0xAA, 0x01, 0x00, 0x00, 0xFF, 0xFF, 0x55] = .ok (.frameCmdL0, []) := by
  decide +kernel

theorem test_word_frameCmdL1 :
    decodeFrame [0xAA, 0x01, 0x00, 0x01, 0x00, 0x40, 0xBF, 0x55] = .ok (.frameCmdL1 0x00, []) := by
  decide +kernel

theorem test_word_frameCmdL2 :
    decodeFrame [0xAA, 0x01, 0x00, 0x02, 0x01, 0x02, 0xE1, 0x81, 0x55] = .ok (.frameCmdL2 0x01 0x02, []) := by
  decide +kernel

theorem test_word_frameCmdL3 :
    decodeFrame [0xAA, 0x01, 0x00, 0x03, 0x01, 0x02, 0x03, 0x61, 0x61, 0x55] = .ok (.frameCmdL3 0x01 0x02 0x03, []) := by
  decide +kernel

theorem test_word_frameCmdL4 :
    decodeFrame [0xAA, 0x01, 0x00, 0x04, 0x01, 0x02, 0x03, 0x04, 0x2B, 0xA1, 0x55] = .ok (.frameCmdL4 0x01 0x02 0x03 0x04, []) := by
  decide +kernel

theorem test_word_frameCmdL5 :
    decodeFrame [0xAA, 0x01, 0x00, 0x05, 0x01, 0x02, 0x03, 0x04, 0x05, 0xBB, 0x2A, 0x55] = .ok (.frameCmdL5 0x01 0x02 0x03 0x04 0x05, []) := by
  decide +kernel

theorem test_word_frameCmdL6 :
    decodeFrame [0xAA, 0x01, 0x00, 0x06, 0x01, 0x02, 0x03, 0x04, 0x05, 0x06, 0xDD, 0xBA, 0x55] = .ok (.frameCmdL6 0x01 0x02 0x03 0x04 0x05 0x06, []) := by
  decide +kernel

theorem test_word_frameCmdL7 :
    decodeFrame [0xAA, 0x01, 0x00, 0x07, 0x01, 0x02, 0x03, 0x04, 0x05, 0x06, 0x07, 0x71, 0x1D, 0x55] = .ok (.frameCmdL7 0x01 0x02 0x03 0x04 0x05 0x06 0x07, []) := by
  decide +kernel

theorem test_word_frameCmdL8 :
    decodeFrame [0xAA, 0x01, 0x00, 0x08, 0x01, 0x02, 0x03, 0x04, 0x05, 0x06, 0x07, 0x08, 0xCF, 0xB0, 0x55] = .ok (.frameCmdL8 0x01 0x02 0x03 0x04 0x05 0x06 0x07 0x08, []) := by
  decide +kernel

theorem test_word_frameDataL0 :
    decodeFrame [0xAA, 0x02, 0x00, 0x00, 0xFF, 0xFF, 0x55] = .ok (.frameDataL0, []) := by
  decide +kernel

theorem test_word_frameDataL1 :
    decodeFrame [0xAA, 0x02, 0x00, 0x01, 0xAA, 0x3F, 0x3F, 0x55] = .ok (.frameDataL1 0xAA, []) := by
  decide +kernel

theorem test_word_frameDataL2 :
    decodeFrame [0xAA, 0x02, 0x00, 0x02, 0x01, 0x02, 0xE1, 0x81, 0x55] = .ok (.frameDataL2 0x01 0x02, []) := by
  decide +kernel

theorem test_word_frameDataL3 :
    decodeFrame [0xAA, 0x02, 0x00, 0x03, 0x01, 0x02, 0x03, 0x61, 0x61, 0x55] = .ok (.frameDataL3 0x01 0x02 0x03, []) := by
  decide +kernel

theorem test_word_frameDataL4 :
    decodeFrame [0xAA, 0x02, 0x00, 0x04, 0x01, 0x02, 0x03, 0x04, 0x2B, 0xA1, 0x55] = .ok (.frameDataL4 0x01 0x02 0x03 0x04, []) := by
  decide +kernel

theorem test_word_frameDataL5 :
    decodeFrame [0xAA, 0x02, 0x00, 0x05, 0x01, 0x02, 0x03, 0x04, 0x05, 0xBB, 0x2A, 0x55] = .ok (.frameDataL5 0x01 0x02 0x03 0x04 0x05, []) := by
  decide +kernel

theorem test_word_frameDataL6 :
    decodeFrame [0xAA, 0x02, 0x00, 0x06, 0x01, 0x02, 0x03, 0x04, 0x05, 0x06, 0xDD, 0xBA, 0x55] = .ok (.frameDataL6 0x01 0x02 0x03 0x04 0x05 0x06, []) := by
  decide +kernel

theorem test_word_frameDataL7 :
    decodeFrame [0xAA, 0x02, 0x00, 0x07, 0x01, 0x02, 0x03, 0x04, 0x05, 0x06, 0x07, 0x71, 0x1D, 0x55] = .ok (.frameDataL7 0x01 0x02 0x03 0x04 0x05 0x06 0x07, []) := by
  decide +kernel

theorem test_word_frameDataL8 :
    decodeFrame [0xAA, 0x02, 0x00, 0x08, 0x01, 0x02, 0x03, 0x04, 0x05, 0x06, 0x07, 0x08, 0xCF, 0xB0, 0x55] = .ok (.frameDataL8 0x01 0x02 0x03 0x04 0x05 0x06 0x07 0x08, []) := by
  decide +kernel

/-- R62, R71, R73, R61, R68: each refusal of the table decoder by name. -/
theorem test_decode_refuses_by_name :
    decodeFrame [0xAA, 0x03, 0x00, 0x02, 0x01, 0x02, 0xE1, 0x81, 0x55] = .error .unassignedType ∧
    decodeFrame [0xAA, 0x01, 0x01, 0x00] = .error .illegalLength ∧
    decodeFrame [0xAA, 0x02, 0x00, 0x02, 0x01, 0x02, 0x81, 0xE1, 0x55] = .error .badCrc ∧
    decodeFrame [0xAA, 0x01, 0x00, 0x00, 0xFF, 0xFF, 0x00] = .error .badTail ∧
    decodeFrame [0x55, 0x01, 0x00, 0x00, 0xFF, 0xFF, 0x55] = .error .notHead ∧
    decodeFrame [0xAA, 0x01, 0x00, 0x00, 0xFF, 0xFF] = .error .shortBody ∧
    decodeFrame [0xAA, 0x01, 0x00] = .error .shortHeader := by
  decide +kernel

/-- No two rows of the table share a header. -/
theorem test_rows_do_not_overlap : (frameTable.map FrameRow.hdr).Nodup := by decide

/-- Each row's header, given alone as a table word, decodes to a frame of the row's type with the row's number of payload
bytes, and one step runs it from reset. -/
theorem test_every_row_decodes_and_runs : ∀ r ∈ frameTable,
    (decodeTableWord 32 r.hdr.toNat).bind Instr.frame? = some (r.type, List.replicate r.len 0) ∧
    (next? (step (State.reset.withFetchWord 32 r.hdr.toNat))).map State.output =
      some (.triple ⟨some r.type.code, some (List.replicate r.len 0), 7 + r.len⟩) := by
  decide +kernel

/-- A whole frame as a table word: V-ENC-6, header in bits 31..0, offset 4 in bits 39..32. -/
theorem test_table_word_whole_frame :
    decodeTableWord 72 0x5581E10201AA020002 = some (.frameDataL2 0x01 0x02) := by
  decide +kernel

theorem test_operations_have_no_words : encode (.crcByte 0x01) = [] ∧ encode .rxStep = [] ∧ decodeTableWord 0 0 = none := by
  decide +kernel

theorem test_mnemonics : (Instr.frameDataL8 1 2 3 4 5 6 7 8).mnemonic = "FRAME.DATA.L8" ∧ Instr.rxDrain.mnemonic = "RX.DRAIN" := by
  decide

/-! ### Checksum unit -/

/-- V-CRC-1 to V-CRC-13. -/
theorem test_crc16_short :
    [crc16 [],
     crc16 [0x00],
     crc16 [0x01],
     crc16 [0x02],
     crc16 [0x80],
     crc16 [0xFF],
     crc16 [0xAA],
     crc16 [0x55],
     crc16 [0x00, 0x00],
     crc16 [0xFF, 0xFF],
     crc16 [0x01, 0x02],
     crc16 [0x02, 0x01],
     crc16 [0x31, 0x32, 0x33, 0x34, 0x35, 0x36, 0x37, 0x38, 0x39]] =
    [0xFFFF, 0x40BF, 0x807E, 0x813E, 0xE0BE, 0x00FF, 0x3F3F, 0x7F7F, 0xB001, 0x0000, 0xE181, 0x10C1, 0x4B37] := by
  decide +kernel

/-- V-CRC-14 to V-CRC-26. -/
theorem test_crc16_payloads :
    [crc16 [0x00, 0x00, 0x00, 0x00, 0x00, 0x00, 0x00, 0x00],
     crc16 [0xFF, 0xFF, 0xFF, 0xFF, 0xFF, 0xFF, 0xFF, 0xFF],
     crc16 [0x01, 0x02, 0x03, 0x04, 0x05, 0x06, 0x07, 0x08],
     crc16 [0xAA, 0x01, 0x00, 0x03],
     crc16 [0x00, 0x00, 0x00, 0x00, 0x80, 0x00, 0x00, 0x00],
     crc16 [0x00, 0x00, 0x00, 0x00, 0x40, 0x00, 0x00, 0x00],
     crc16 [0x01, 0x00, 0x00, 0x00, 0x80, 0x00, 0x00, 0x00],
     crc16 [0x01, 0x00, 0x00, 0x00, 0x01, 0x00, 0x00, 0x00],
     crc16 [0x03, 0x00, 0x00, 0x00, 0xAA, 0x55, 0xAA, 0x55],
     crc16 [0x02, 0x00, 0x00, 0x00, 0x00, 0x00, 0x00, 0x00],
     crc16 [0x03, 0x00, 0x00, 0x00, 0x00, 0x00, 0x00, 0x00],
     crc16 [0x10, 0x11, 0x12, 0x13, 0x14, 0x15, 0x16, 0x17],
     crc16 [0x88, 0x89, 0x8A, 0x8B, 0x8C, 0x8D, 0x8E, 0x8F]] =
    [0x0B40, 0x8F01, 0xCFB0, 0x3D30, 0xCB69, 0xCB55, 0x07A8, 0x3B80, 0x498F, 0xD2C1, 0x1E00, 0xED9C, 0xCF74] := by
  decide +kernel

/-- The trace of `crc_update(0x0000, 0x01)` under section 2 of the vectors. -/
theorem test_crc_bit_trace :
    (List.range 9).map (fun n => crcBits n 0x0001) =
      [0x0001, 0xA001, 0xF001, 0xD801, 0xCC01, 0xC601, 0xC301, 0xC181, 0xC0C1] := by
  decide +kernel

/-- V-OP-1. -/
theorem test_crcInit : after .crcInit (at_ 0x1234 [0xAA]) = some (0xFFFF, [0xAA], .nothing) := by decide

/-- V-OP-2, V-OP-3. -/
theorem test_crcByte : after (.crcByte 0x01) (at_ 0xFFFF []) = some (0x807E, [], .nothing) ∧
    after (.crcByte 0x02) (at_ 0x807E []) = some (0xE181, [], .nothing) := by
  decide +kernel

/-- The running accumulator over V-CRC-13. -/
theorem test_crcByte_running :
    (List.range 10).map (fun n => crc16 ([0x31, 0x32, 0x33, 0x34, 0x35, 0x36, 0x37, 0x38, 0x39].take n)) =
      [0xFFFF, 0x947E, 0xF595, 0x7A75, 0x30BA, 0xA471, 0x32E4, 0x9D73, 0x37DD, 0x4B37] := by
  decide +kernel

/-- V-OP-4, V-OP-6. -/
theorem test_crcRead : after .crcRead (at_ 0xE181 []) = some (0xE181, [], .word 0xE181) ∧
    after .crcRead State.reset = some (0xFFFF, [], .word 0xFFFF) := by
  decide

/-- V-CRC-3 as an operation: the accumulator is untouched. -/
theorem test_crc16_leaves_accumulator : after (.crc16 [0x01]) (at_ 0x1234 []) = some (0x1234, [], .word 0x807E) := by
  decide +kernel

/-! ### Encoder -/

/-- V-ENC-1 to V-ENC-17. -/
theorem test_encode_vectors :
    [encodeFrame 0x01 [],
     encodeFrame 0x02 [],
     encodeFrame 0x01 [0x00],
     encodeFrame 0x02 [0xAA],
     encodeFrame 0x02 [0x55],
     encodeFrame 0x02 [0x01, 0x02],
     encodeFrame 0x02 [0x01, 0x02, 0x03],
     encodeFrame 0x02 [0x01, 0x02, 0x03, 0x04],
     encodeFrame 0x02 [0x01, 0x02, 0x03, 0x04, 0x05],
     encodeFrame 0x02 [0x01, 0x02, 0x03, 0x04, 0x05, 0x06],
     encodeFrame 0x02 [0x01, 0x02, 0x03, 0x04, 0x05, 0x06, 0x07],
     encodeFrame 0x02 [0x01, 0x02, 0x03, 0x04, 0x05, 0x06, 0x07, 0x08],
     encodeFrame 0x01 [0x00, 0x00, 0x00, 0x00, 0x80, 0x00, 0x00, 0x00],
     encodeFrame 0x01 [0x00, 0x00, 0x00, 0x00, 0x00, 0x00, 0x00, 0x00],
     encodeFrame 0x02 [0xFF, 0xFF, 0xFF, 0xFF, 0xFF, 0xFF, 0xFF, 0xFF],
     encodeFrame 0x02 [0xAA, 0x01, 0x00, 0x03],
     encodeFrame 0x02 [0xFF, 0xFF]].map Except.toOption =
    [some [0xAA, 0x01, 0x00, 0x00, 0xFF, 0xFF, 0x55],
     some [0xAA, 0x02, 0x00, 0x00, 0xFF, 0xFF, 0x55],
     some [0xAA, 0x01, 0x00, 0x01, 0x00, 0x40, 0xBF, 0x55],
     some [0xAA, 0x02, 0x00, 0x01, 0xAA, 0x3F, 0x3F, 0x55],
     some [0xAA, 0x02, 0x00, 0x01, 0x55, 0x7F, 0x7F, 0x55],
     some [0xAA, 0x02, 0x00, 0x02, 0x01, 0x02, 0xE1, 0x81, 0x55],
     some [0xAA, 0x02, 0x00, 0x03, 0x01, 0x02, 0x03, 0x61, 0x61, 0x55],
     some [0xAA, 0x02, 0x00, 0x04, 0x01, 0x02, 0x03, 0x04, 0x2B, 0xA1, 0x55],
     some [0xAA, 0x02, 0x00, 0x05, 0x01, 0x02, 0x03, 0x04, 0x05, 0xBB, 0x2A, 0x55],
     some [0xAA, 0x02, 0x00, 0x06, 0x01, 0x02, 0x03, 0x04, 0x05, 0x06, 0xDD, 0xBA, 0x55],
     some [0xAA, 0x02, 0x00, 0x07, 0x01, 0x02, 0x03, 0x04, 0x05, 0x06, 0x07, 0x71, 0x1D, 0x55],
     some [0xAA, 0x02, 0x00, 0x08, 0x01, 0x02, 0x03, 0x04, 0x05, 0x06, 0x07, 0x08, 0xCF, 0xB0, 0x55],
     some [0xAA, 0x01, 0x00, 0x08, 0x00, 0x00, 0x00, 0x00, 0x80, 0x00, 0x00, 0x00, 0xCB, 0x69, 0x55],
     some [0xAA, 0x01, 0x00, 0x08, 0x00, 0x00, 0x00, 0x00, 0x00, 0x00, 0x00, 0x00, 0x0B, 0x40, 0x55],
     some [0xAA, 0x02, 0x00, 0x08, 0xFF, 0xFF, 0xFF, 0xFF, 0xFF, 0xFF, 0xFF, 0xFF, 0x8F, 0x01, 0x55],
     some [0xAA, 0x02, 0x00, 0x04, 0xAA, 0x01, 0x00, 0x03, 0x3D, 0x30, 0x55],
     some [0xAA, 0x02, 0x00, 0x02, 0xFF, 0xFF, 0x00, 0x00, 0x55]] := by
  decide +kernel

/-- V-ENC-18, V-ENC-19, V-ENC-20. -/
theorem test_encode_refusals :
    refusal? (exec (.encode 0x02 [1, 2, 3, 4, 5, 6, 7, 8, 9]) State.reset) = some .payloadTooLong ∧
    refusal? (exec (.encode 0x03 []) State.reset) = some .badType ∧
    refusal? (exec (.encode 0x00 [0x01]) State.reset) = some .badType := by
  decide

/-! ### Decoder -/

/-- V-DEC-1, V-DEC-2, V-DEC-3, V-DEC-4, V-DEC-5. -/
theorem test_decode_need_header :
    ([([], .needHeader, ⟨none, none, 0⟩),
      ([0xAA], .needHeader, ⟨none, none, 0⟩),
      ([0x00, 0x11, 0x22], .needHeader, ⟨none, none, 0⟩),
      ([0xAA, 0x01, 0x00], .needHeader, ⟨none, none, 0⟩),
      ([0xAA, 0xAA, 0xAA], .needHeader, ⟨none, none, 0⟩)] :
      List (List Byte × Verdict × DecodeResult)).all
      (fun v => examine false v.1 == v.2.1 && decode false v.1 == v.2.2) = true := by
  decide +kernel

/-- V-DEC-6, V-DEC-7, V-DEC-8. -/
theorem test_decode_no_head :
    ([([0x00, 0x11, 0x22, 0x33], (.noHead 4), ⟨none, none, 4⟩),
      ([0x00, 0x11, 0x22, 0x33, 0x44, 0x55, 0x66], (.noHead 7), ⟨none, none, 7⟩),
      ([0x55, 0x55, 0x55, 0x55, 0x55, 0x55, 0x55, 0x55, 0x55, 0x55, 0x55, 0x55, 0x55, 0x55, 0x55, 0x55], (.noHead 16), ⟨none, none, 16⟩)] :
      List (List Byte × Verdict × DecodeResult)).all
      (fun v => examine false v.1 == v.2.1 && decode false v.1 == v.2.2) = true := by
  decide +kernel

/-- V-DEC-9, V-DEC-10, V-DEC-11, V-DEC-50. -/
theorem test_decode_skip_prefix :
    ([([0x00, 0x11, 0x22, 0xAA], (.skipPrefix 3), ⟨none, none, 3⟩),
      ([0x00, 0xAA, 0x01, 0x00, 0x00, 0xFF, 0xFF, 0x55], (.skipPrefix 1), ⟨none, none, 1⟩),
      ([0x01, 0x00, 0x00, 0xFF, 0xFF, 0x55, 0xAA, 0x01, 0x00, 0x00, 0xFF, 0xFF, 0x55], (.skipPrefix 6), ⟨none, none, 6⟩),
      ([0x00, 0xAA, 0x01, 0x00, 0x09], (.skipPrefix 1), ⟨none, none, 1⟩)] :
      List (List Byte × Verdict × DecodeResult)).all
      (fun v => examine false v.1 == v.2.1 && decode false v.1 == v.2.2) = true := by
  decide +kernel

/-- V-DEC-12, V-DEC-13, V-DEC-14, V-DEC-15, V-DEC-16, V-DEC-17, V-DEC-48. -/
theorem test_decode_bad_length :
    ([([0xAA, 0x01, 0x00, 0x09], .badLength, ⟨none, none, 1⟩),
      ([0xAA, 0x01, 0x00, 0xFF], .badLength, ⟨none, none, 1⟩),
      ([0xAA, 0x01, 0x01, 0x00], .badLength, ⟨none, none, 1⟩),
      ([0xAA, 0x01, 0xFF, 0xFF], .badLength, ⟨none, none, 1⟩),
      ([0xAA, 0x01, 0x01, 0x00, 0x00, 0xFF, 0xFF, 0x55], .badLength, ⟨none, none, 1⟩),
      ([0xAA, 0xAA, 0xAA, 0xAA], .badLength, ⟨none, none, 1⟩),
      ([0xAA, 0x01, 0x00, 0x09, 0x00, 0x00, 0x00, 0x00, 0x00, 0x00, 0x00, 0x00, 0x00, 0x00, 0x00, 0x00, 0x55], .badLength, ⟨none, none, 1⟩)] :
      List (List Byte × Verdict × DecodeResult)).all
      (fun v => examine false v.1 == v.2.1 && decode false v.1 == v.2.2) = true := by
  decide +kernel

/-- V-DEC-18, V-DEC-19, V-DEC-20, V-DEC-21, V-DEC-22, V-DEC-23. -/
theorem test_decode_need_body :
    ([([0xAA, 0x01, 0x00, 0x08], .needBody, ⟨none, none, 0⟩),
      ([0xAA, 0x01, 0x00, 0x00], .needBody, ⟨none, none, 0⟩),
      ([0xAA, 0x01, 0x00, 0x00, 0xFF], .needBody, ⟨none, none, 0⟩),
      ([0xAA, 0x01, 0x00, 0x00, 0xFF, 0xFF], .needBody, ⟨none, none, 0⟩),
      ([0xAA, 0x02, 0x00, 0x02, 0x01, 0x02, 0xE1, 0x81], .needBody, ⟨none, none, 0⟩),
      ([0xAA, 0x02, 0x00, 0x08, 0x01, 0x02, 0x03, 0x04, 0x05, 0x06, 0x07, 0x08, 0xCF, 0xB0], .needBody, ⟨none, none, 0⟩)] :
      List (List Byte × Verdict × DecodeResult)).all
      (fun v => examine false v.1 == v.2.1 && decode false v.1 == v.2.2) = true := by
  decide +kernel

/-- V-DEC-24, V-DEC-25, V-DEC-26, V-DEC-27, V-DEC-28, V-DEC-29, V-DEC-37, V-DEC-49. -/
theorem test_decode_bad_crc :
    ([([0xAA, 0x02, 0x00, 0x02, 0x01, 0x02, 0xE1, 0x80, 0x55], .badCrc, ⟨none, none, 1⟩),
      ([0xAA, 0x02, 0x00, 0x02, 0x01, 0x03, 0xE1, 0x81, 0x55], .badCrc, ⟨none, none, 1⟩),
      ([0xAA, 0x02, 0x00, 0x02, 0x01, 0x02, 0x61, 0x81, 0x55], .badCrc, ⟨none, none, 1⟩),
      ([0xAA, 0x01, 0x00, 0x00, 0xFF, 0xFE, 0x55], .badCrc, ⟨none, none, 1⟩),
      ([0xAA, 0x01, 0x00, 0x00, 0x00, 0x00, 0x55], .badCrc, ⟨none, none, 1⟩),
      ([0xAA, 0x02, 0x00, 0x02, 0x01, 0x02, 0x81, 0xE1, 0x55], .badCrc, ⟨none, none, 1⟩),
      ([0xAA, 0x01, 0x00, 0x08, 0x00, 0x00, 0x00, 0x00, 0x80, 0x00, 0x00, 0x00, 0xCB, 0x68, 0x55], .badCrc, ⟨none, none, 1⟩),
      ([0xAA, 0x02, 0x00, 0x02, 0x01, 0x02, 0xE1, 0x80, 0x54], .badCrc, ⟨none, none, 1⟩)] :
      List (List Byte × Verdict × DecodeResult)).all
      (fun v => examine false v.1 == v.2.1 && decode false v.1 == v.2.2) = true := by
  decide +kernel

/-- V-DEC-30, V-DEC-31, V-DEC-32. -/
theorem test_decode_bad_tail :
    ([([0xAA, 0x02, 0x00, 0x02, 0x01, 0x02, 0xE1, 0x81, 0x54], .badTail, ⟨none, none, 1⟩),
      ([0xAA, 0x01, 0x00, 0x00, 0xFF, 0xFF, 0xAA], .badTail, ⟨none, none, 1⟩),
      ([0xAA, 0x01, 0x00, 0x00, 0xFF, 0xFF, 0x00], .badTail, ⟨none, none, 1⟩)] :
      List (List Byte × Verdict × DecodeResult)).all
      (fun v => examine false v.1 == v.2.1 && decode false v.1 == v.2.2) = true := by
  decide +kernel

/-- V-DEC-33, V-DEC-34, V-DEC-35, V-DEC-36, V-DEC-38, V-DEC-39, V-DEC-40, V-DEC-41, V-DEC-42, V-DEC-43, V-DEC-44, V-DEC-45, V-DEC-46, V-DEC-47. -/
theorem test_decode_frame :
    ([([0xAA, 0x01, 0x00, 0x00, 0xFF, 0xFF, 0x55], (.frame 0x01 []), ⟨some 0x01, some [], 7⟩),
      ([0xAA, 0x02, 0x00, 0x00, 0xFF, 0xFF, 0x55], (.frame 0x02 []), ⟨some 0x02, some [], 7⟩),
      ([0xAA, 0x02, 0x00, 0x02, 0x01, 0x02, 0xE1, 0x81, 0x55], (.frame 0x02 [0x01, 0x02]), ⟨some 0x02, some [0x01, 0x02], 9⟩),
      ([0xAA, 0x02, 0x00, 0x08, 0x01, 0x02, 0x03, 0x04, 0x05, 0x06, 0x07, 0x08, 0xCF, 0xB0, 0x55], (.frame 0x02 [0x01, 0x02, 0x03, 0x04, 0x05, 0x06, 0x07, 0x08]), ⟨some 0x02, some [0x01, 0x02, 0x03, 0x04, 0x05, 0x06, 0x07, 0x08], 15⟩),
      ([0xAA, 0x07, 0x00, 0x00, 0xFF, 0xFF, 0x55], (.frame 0x07 []), ⟨some 0x07, some [], 7⟩),
      ([0xAA, 0x00, 0x00, 0x00, 0xFF, 0xFF, 0x55], (.frame 0x00 []), ⟨some 0x00, some [], 7⟩),
      ([0xAA, 0xAA, 0x00, 0x00, 0xFF, 0xFF, 0x55], (.frame 0xAA []), ⟨some 0xAA, some [], 7⟩),
      ([0xAA, 0x01, 0x00, 0x00, 0xFF, 0xFF, 0x55, 0xAA, 0x02], (.frame 0x01 []), ⟨some 0x01, some [], 7⟩),
      ([0xAA, 0x01, 0x00, 0x00, 0xFF, 0xFF, 0x55, 0x00, 0x00, 0x00, 0x00, 0x00, 0x00, 0x00, 0x00, 0x00, 0x00], (.frame 0x01 []), ⟨some 0x01, some [], 7⟩),
      ([0xAA, 0x02, 0x00, 0x01, 0xAA, 0x3F, 0x3F, 0x55], (.frame 0x02 [0xAA]), ⟨some 0x02, some [0xAA], 8⟩),
      ([0xAA, 0x02, 0x00, 0x01, 0x55, 0x7F, 0x7F, 0x55], (.frame 0x02 [0x55]), ⟨some 0x02, some [0x55], 8⟩),
      ([0xAA, 0x02, 0x00, 0x02, 0xFF, 0xFF, 0x00, 0x00, 0x55], (.frame 0x02 [0xFF, 0xFF]), ⟨some 0x02, some [0xFF, 0xFF], 9⟩),
      ([0xAA, 0x02, 0x00, 0x08, 0xAA, 0x01, 0x00, 0x00, 0xFF, 0xFF, 0x55, 0x00, 0xB8, 0xE5, 0x55], (.frame 0x02 [0xAA, 0x01, 0x00, 0x00, 0xFF, 0xFF, 0x55, 0x00]), ⟨some 0x02, some [0xAA, 0x01, 0x00, 0x00, 0xFF, 0xFF, 0x55, 0x00], 15⟩),
      ([0xAA, 0x03, 0x00, 0x02, 0x01, 0x02, 0xE1, 0x81, 0x55], (.frame 0x03 [0x01, 0x02]), ⟨some 0x03, some [0x01, 0x02], 9⟩)] :
      List (List Byte × Verdict × DecodeResult)).all
      (fun v => examine false v.1 == v.2.1 && decode false v.1 == v.2.2) = true := by
  decide +kernel

/-- V-DEC-38, V-DEC-39, V-DEC-40, V-DEC-47 under `STRICT_TYPE = true` (92_eei_decisions.md D5), and V-DEC-33 unchanged. -/
theorem test_decode_strict :
    [decode true [0xAA, 0x07, 0x00, 0x00, 0xFF, 0xFF, 0x55], decode true [0xAA, 0x00, 0x00, 0x00, 0xFF, 0xFF, 0x55],
     decode true [0xAA, 0xAA, 0x00, 0x00, 0xFF, 0xFF, 0x55],
     decode true [0xAA, 0x03, 0x00, 0x02, 0x01, 0x02, 0xE1, 0x81, 0x55],
     decode true [0xAA, 0x01, 0x00, 0x00, 0xFF, 0xFF, 0x55]] =
    [⟨none, none, 1⟩, ⟨none, none, 1⟩, ⟨none, none, 1⟩, ⟨none, none, 1⟩, ⟨some 0x01, some [], 7⟩] := by
  decide +kernel

/-! ### Receive buffer, reset, steps -/

/-- V-OP-7, V-OP-8. -/
theorem test_rxPush : after (.rxPush [0x00, 0x00]) (at_ 0xFFFF [0xAA, 0x01]) = some (0xFFFF, [0xAA, 0x01, 0x00, 0x00], .nothing) ∧
    after (.rxPush []) (at_ 0xFFFF [0xAA, 0x01]) = some (0xFFFF, [0xAA, 0x01], .nothing) := by
  decide

/-- V-OP-18, and the last push that fits. -/
theorem test_rxPush_overflow :
    refusal? (exec (.rxPush [0x00, 0x00]) { at_ 0xFFFF (List.replicate 14 0) with cfg := ⟨some 15, false⟩ }) =
      some .rxOverflow ∧
    (next? (exec (.rxPush [0x00]) { at_ 0xFFFF (List.replicate 14 0) with cfg := ⟨some 15, false⟩ })).isSome = true := by
  decide

/-- V-OP-9 to V-OP-13. -/
theorem test_rxStep :
    after .rxStep (at_ 0xFFFF []) = some (0xFFFF, [], .triple ⟨none, none, 0⟩) ∧
    after .rxStep (at_ 0xFFFF [0x00, 0x11, 0xAA, 0x01, 0x00, 0x00, 0xFF, 0xFF, 0x55]) =
      some (0xFFFF, [0xAA, 0x01, 0x00, 0x00, 0xFF, 0xFF, 0x55], .triple ⟨none, none, 2⟩) ∧
    after .rxStep (at_ 0xFFFF [0xAA, 0x01, 0x00, 0x00, 0xFF, 0xFF, 0x55]) =
      some (0xFFFF, [], .triple ⟨some 0x01, some [], 7⟩) ∧
    after .rxStep (at_ 0xFFFF [0xAA, 0x01, 0x00, 0x09, 0x55]) =
      some (0xFFFF, [0x01, 0x00, 0x09, 0x55], .triple ⟨none, none, 1⟩) ∧
    after .rxStep (at_ 0xFFFF [0x01, 0x00, 0x09, 0x55]) = some (0xFFFF, [], .triple ⟨none, none, 4⟩) := by
  decide +kernel

/-- V-OP-14. -/
theorem test_rxStep_keeps_accumulator :
    after .rxStep (at_ 0x1234
      [0xAA, 0x01, 0x00, 0x00, 0xFF, 0xFF, 0x55, 0xAA, 0x02, 0x00, 0x02, 0x01, 0x02, 0xE1, 0x81, 0x55]) =
      some (0x1234, [0xAA, 0x02, 0x00, 0x02, 0x01, 0x02, 0xE1, 0x81, 0x55], .triple ⟨some 0x01, some [], 7⟩) := by
  decide +kernel

/-- V-OP-15, V-OP-16. -/
theorem test_rxDrain :
    after .rxDrain (at_ 0xFFFF
      [0xAA, 0x02, 0x00, 0x02, 0x01, 0x02, 0xE1, 0x80, 0x55, 0xAA, 0x01, 0x00, 0x00, 0xFF, 0xFF, 0x55]) =
      some (0xFFFF, [], .triple ⟨some 0x01, some [], 7⟩) ∧
    after .rxDrain (at_ 0xFFFF [0x00, 0x11, 0x22, 0x33, 0xAA, 0x01]) =
      some (0xFFFF, [0xAA, 0x01], .triple ⟨none, none, 0⟩) := by
  decide +kernel

/-- Program P5's second drain: the false head that held back a good frame (R221). -/
theorem test_rxDrain_false_head :
    after .rxDrain (at_ 0xFFFF
      [0xAA, 0x01, 0x00, 0x08, 0xAA, 0x01, 0x00, 0x00, 0xFF, 0xFF, 0x55, 0xAA, 0x02, 0x00, 0x01]) =
      some (0xFFFF, [0xAA, 0x02, 0x00, 0x01], .triple ⟨some 0x01, some [], 7⟩) := by
  decide +kernel

/-- V-OP-17. -/
theorem test_reset : after .reset (at_ 0x807E [0xAA, 0x01, 0x00]) = some (0xFFFF, [], .nothing) := by decide

/-- R129, R131: a delivered frame leaves what follows it (V-DEC-41). -/
theorem test_frame_leaves_rest :
    after .frameCmdL0 (at_ 0x1234 [0xAA, 0x01, 0x00, 0x00, 0xFF, 0xFF, 0x55, 0xAA, 0x02]) =
      some (0x1234, [0xAA, 0x02], .triple ⟨some 0x01, some [], 7⟩) := by
  decide +kernel

/-- R17: a read inside the buffer, and one past its end. -/
theorem test_memRead : (at_ 0xFFFF [0x0A, 0x0B, 0x0C]).memRead 1 2 = some [0x0B, 0x0C] ∧
    (at_ 0xFFFF [0x0A, 0x0B, 0x0C]).memRead 2 2 = none ∧ (at_ 0xFFFF [0x0A, 0x0B, 0x0C]).readByte 3 = none := by
  decide

/-- R231: with nothing issued the state stays; an issued operation is performed in order. -/
theorem test_step : next? (step State.reset) = some State.reset ∧
    next? (step ((State.reset.issue (.crcByte 0x01)).issue .crcRead)) =
      some { State.reset with crcAcc := 0x807E, requests := [.crcRead] } := by
  decide +kernel

/-! ### Witnesses: concrete values that meet the hypotheses of each obligation that has some -/

/-- The empty CMD frame (V-ENC-1), a DATA frame (V-ENC-6) and the longest one (V-ENC-12). -/
def f0 : List Byte := [0xAA, 0x01, 0x00, 0x00, 0xFF, 0xFF, 0x55]
def f2 : List Byte := [0xAA, 0x02, 0x00, 0x02, 0x01, 0x02, 0xE1, 0x81, 0x55]
def f8 : List Byte := [0xAA, 0x02, 0x00, 0x08, 0x01, 0x02, 0x03, 0x04, 0x05, 0x06, 0x07, 0x08, 0xCF, 0xB0, 0x55]

theorem valid_f0 : validFrame f0 = true := by decide +kernel
theorem valid_f2 : validFrame f2 = true := by decide +kernel
theorem valid_f8 : validFrame f8 = true := by decide +kernel

theorem witness_CrcUpdateIsEightBitSteps : (0x0001 : U16).getLsbD 0 = true ∧ (0xFFFE : U16).getLsbD 0 = false := by decide

theorem witness_SerialCrcEqualsPureCrc :
    ({ State.reset with requests := [.crcInit, .crcByte 0x01, .crcByte 0x02, .crcRead, .rxStep] } : State).requests =
      [.crcInit] ++ [0x01, 0x02].map .crcByte ++ [.crcRead] ++ [.rxStep] ∧
    (at_ 0x807E []).crcAcc = crc16 [0x01] ∧
    ({ at_ 0x807E [] with requests := [.crcByte 0x02, .crcRead] } : State).requests =
      [0x02].map .crcByte ++ [.crcRead] ++ [] := by
  decide +kernel

theorem witness_CrcBitStepIsBijective : 8 ≤ (15 : Nat) := by decide

theorem witness_Crc16IsAffineOverXor :
    ([0x01, 0x02] : List Byte).length = ([0xAA, 0x55] : List Byte).length ∧
    ([0xAA, 0x55] : List Byte).length = ([0x00, 0xFF] : List Byte).length := by decide

theorem witness_Crc16DetectsOneFlippedBit : 8 < ([0x31, 0x32, 0x33, 0x34, 0x35, 0x36, 0x37, 0x38, 0x39] : List Byte).length ∧
    7 < 8 := by decide

theorem witness_EncodeBuildsFrameOrRefuses :
    (((0x02 : Byte) = 0x01 ∨ (0x02 : Byte) = 0x02) ∧ (List.replicate 8 (0 : Byte)).length ≤ 8) ∧
    8 < (List.replicate 9 (0 : Byte)).length ∧ ((0x03 : Byte) ≠ 0x01 ∧ (0x03 : Byte) ≠ 0x02) := by decide

theorem witness_EncodeResultIsWellTypedFrame :
    exec (.encode 0x02 [0x01, 0x02]) State.reset = .next { State.reset with output := .bytes f2 } :=
  of_next? (by decide +kernel)

theorem witness_EncodedFrameLayout :
    exec (.encode 0x02 [1, 2, 3, 4, 5, 6, 7, 8]) State.reset = .next { State.reset with output := .bytes f8 } :=
  of_next? (by decide +kernel)

theorem witness_EncodeIsBijectionOntoWellTypedFrames : wellTypedFrame f8 = true := by decide +kernel

theorem witness_TableWordsAgreeWithEncode : (Instr.frameDataL2 0x01 0x02).frame? = some (.data, [0x01, 0x02]) := rfl

theorem witness_TableDecodeOfEncode : (Instr.frameCmdL8 1 2 3 4 5 6 7 8).frame?.isSome = true := rfl

theorem witness_TableDecodeAcceptsOnlyEncodings : decodeFrame (f2 ++ [0xAA]) = .ok (.frameDataL2 0x01 0x02, [0xAA]) := by
  decide +kernel

/-- A frame, and then each way to have none: waiting for a header and for a body, the shortest headless buffer, a head at
the last offset and at offset 1, a false head. -/
theorem witness_DecodeCompletesWithBoundedResult :
    (decode false (f8 ++ [0x00])).payload = some [1, 2, 3, 4, 5, 6, 7, 8] ∧
    [decode false [0x00, 0x11, 0x22], decode false (f8.take 14), decode false [0x00, 0x11, 0x22, 0x33],
      decode false [0x00, 0x11, 0x22, 0xAA], decode false (0x00 :: f0), decode false [0xAA, 0x01, 0x00, 0x09]] =
      [0, 0, 4, 3, 1, 1].map (fun k => ⟨none, none, k⟩) := by
  decide +kernel

theorem witness_DecodeWaitsOrDropsGarbage :
    ([0xAA, 0x01, 0x00] : List Byte).length < 4 ∧
    (4 ≤ ([0x00, 0x11, 0x22, 0x33] : List Byte).length ∧ (0xAA : Byte) ∉ ([0x00, 0x11, 0x22, 0x33] : List Byte)) ∧
    (([0x00, 0x11, 0x22] : List Byte) ≠ [] ∧ (0xAA : Byte) ∉ ([0x00, 0x11, 0x22] : List Byte) ∧
      4 ≤ ([0x00, 0x11, 0x22] : List Byte).length + 1 + ([] : List Byte).length) := by decide

theorem witness_DecodeRejectsIllegalLength :
    8 < 256 * (0x00 : Byte).toNat + (0x09 : Byte).toNat ∧ 8 < 256 * (0x01 : Byte).toNat + (0x00 : Byte).toNat := by decide

theorem witness_DecodeWaitsForBody :
    256 * (0x00 : Byte).toNat + (0x08 : Byte).toNat ≤ 8 ∧
    4 + (List.replicate 10 (0 : Byte)).length < 7 + (256 * (0x00 : Byte).toNat + (0x08 : Byte).toNat) := by decide

theorem witness_DecodeRejectsBadCrc :
    256 * (0x00 : Byte).toNat + (0x02 : Byte).toNat ≤ 8 ∧
    ([0x01, 0x02] : List Byte).length = 256 * (0x00 : Byte).toNat + (0x02 : Byte).toNat ∧
    256 * (0xE1 : Byte).toNat + (0x80 : Byte).toNat ≠ (crc16 [0x01, 0x02]).toNat := by decide +kernel

theorem witness_DecodeRejectsBadTail :
    256 * (0x00 : Byte).toNat + (0x02 : Byte).toNat ≤ 8 ∧
    ([0x01, 0x02] : List Byte).length = 256 * (0x00 : Byte).toNat + (0x02 : Byte).toNat ∧
    256 * (0xE1 : Byte).toNat + (0x81 : Byte).toNat = (crc16 [0x01, 0x02]).toNat ∧ (0x54 : Byte) ≠ 0x55 := by decide +kernel

theorem witness_DecodeDeliversGoodFrame :
    256 * (0x00 : Byte).toNat + (0x00 : Byte).toNat ≤ 8 ∧
    ([] : List Byte).length = 256 * (0x00 : Byte).toNat + (0x00 : Byte).toNat ∧
    256 * (0xFF : Byte).toNat + (0xFF : Byte).toNat = (crc16 []).toNat ∧
    (State.reset.cfg.strictType = false ∨ (0x07 : Byte) = 0x01 ∨ (0x07 : Byte) = 0x02) ∧
    (({ State.reset with cfg := ⟨none, true⟩ } : State).cfg.strictType = true ∧ (0x07 : Byte) ≠ 0x01 ∧ (0x07 : Byte) ≠ 0x02) := by
  decide +kernel

theorem witness_DecodeNeverTestsTypeByte :
    exec (.decode (0xAA :: 0x01 :: [0x00, 0x00, 0xFF, 0xFF, 0x55])) State.reset =
      .next { State.reset with output := .triple ⟨some 0x01, some [], 7⟩ } ∧
    exec (.decode (0xAA :: 0x07 :: [0x00, 0x00, 0xFF, 0xFF, 0x55])) State.reset =
      .next { State.reset with output := .triple ⟨some 0x07, some [], 7⟩ } ∧ State.reset.cfg.strictType = false :=
  ⟨of_next? (by decide +kernel), of_next? (by decide +kernel), rfl⟩

theorem witness_DecodeVerdictIgnoresLaterBytes :
    byteAt f0 0 = 0xAA ∧ DecodeResult.needMore ⟨some 0x01, some [], 7⟩ = false ∧
    exec (.decode f0) State.reset = .next { State.reset with output := .triple ⟨some 0x01, some [], 7⟩ } :=
  ⟨rfl, rfl, of_next? (by decide +kernel)⟩

theorem witness_DecodeProgressOnFullBuffer : 15 ≤ f8.length := by decide

theorem witness_PartialFrameIsWaitedOn : validFrame f8 = true ∧ 14 < f8.length := ⟨valid_f8, by decide⟩

theorem witness_DecodeOfEncodeRoundTrip :
    ((0x01 : Byte) = 0x01 ∨ (0x01 : Byte) = 0x02) ∧ (List.replicate 8 (0xAA : Byte)).length ≤ 8 := by decide

theorem witness_GarbagePrefixThenFrame :
    validFrame f0 = true ∧ ([0x55] : List Byte) ≠ [] ∧ (0xAA : Byte) ∉ ([0x55] : List Byte) ∧
    (State.reset.cfg.strictType = false ∨ byteAt f0 1 = 0x01 ∨ byteAt f0 1 = 0x02) :=
  ⟨valid_f0, by decide, by decide, .inl rfl⟩

/-- The first payload bit, the last crc bit and the last tail bit. -/
theorem witness_SingleBitCorruptionCostsOneByte :
    validFrame f2 = true ∧ (4 ≤ 4 ∧ 4 < f2.length ∧ 0 < 8) ∧ (4 ≤ 7 ∧ 7 < f2.length ∧ 7 < 8) ∧
    (4 ≤ 8 ∧ 8 < f2.length ∧ 7 < 8) :=
  ⟨valid_f2, by decide, by decide, by decide⟩

theorem witness_GoodFrameIsNeverSkipped :
    validFrame f2 = true ∧ (State.reset.cfg.strictType = false ∨ byteAt f2 1 = 0x01 ∨ byteAt f2 1 = 0x02) ∧
    (decode false ([0x00, 0xAA] ++ f2 ++ [])).frameType = none :=
  ⟨valid_f2, .inl rfl, by decide +kernel⟩

theorem witness_RxPushAppendsOrRefuses :
    (∀ cap : Nat, State.reset.cfg.rxbufCap = some cap → State.reset.rxbuf.length + 2 ≤ cap) ∧
    (∃ s : State, s.cfg.rxbufCap = some 15 ∧ 15 < s.rxbuf.length + ([0x00, 0x00] : List Byte).length) :=
  ⟨fun _ h => (by cases h), { at_ 0xFFFF (List.replicate 14 0) with cfg := ⟨some 15, false⟩ }, rfl, by decide⟩

theorem witness_ResyncDropsOnlyFalseHead :
    examine false [0xAA, 0x01, 0x00, 0x09] = .badLength ∧ examine false [0xAA, 0x01, 0x00, 0x00, 0xFF, 0xFE, 0x55] = .badCrc ∧
    examine false [0xAA, 0x01, 0x00, 0x00, 0xFF, 0xFF, 0x54] = .badTail := by
  decide +kernel

/-- A step that stops and one that goes on. -/
theorem witness_RxDrainFollowsLoop :
    (exec .rxStep (at_ 0xFFFF f0) = .next { State.reset with output := .triple ⟨some 0x01, some [], 7⟩ }) ∧
    (exec .rxStep (at_ 0xFFFF (0x00 :: f0)) = .next { at_ 0xFFFF f0 with output := .triple ⟨none, none, 1⟩ }) :=
  ⟨of_next? (by decide +kernel), of_next? (by decide +kernel)⟩

theorem witness_DrainedBufferHoldsAtMostFourteen :
    exec .rxDrain (at_ 0xFFFF (f8.take 14)) = .next { at_ 0xFFFF (f8.take 14) with output := .triple ⟨none, none, 0⟩ } :=
  of_next? (by decide +kernel)

theorem witness_DrainDeliversEarliestFrame :
    validFrame f2 = true ∧ (0xAA : Byte) ∉ ([0x00] : List Byte) ∧
    (State.reset.cfg.strictType = false ∨ byteAt f2 1 = 0x01 ∨ byteAt f2 1 = 0x02) ∧
    (at_ 0xFFFF ([0x00] ++ f2 ++ f0)).rxbuf = [0x00] ++ f2 ++ f0 :=
  ⟨valid_f2, by decide, .inl rfl, rfl⟩

theorem witness_StreamOrderIsPreserved :
    Instr.rxStep ≠ .reset ∧
    exec .rxStep (at_ 0xFFFF (0x00 :: f0)) = .next { at_ 0xFFFF f0 with output := .triple ⟨none, none, 1⟩ } :=
  ⟨by decide, of_next? (by decide +kernel)⟩

theorem witness_FrameInPiecesIsDelivered :
    State.reset.rxbuf = [] ∧ State.reset.cfg.wf = true ∧
    (State.reset.cfg.strictType = false ∨ byteAt f2 1 = 0x01 ∨ byteAt f2 1 = 0x02) ∧ validFrame f2 = true ∧
    [f2.take 2, f2.drop 2].flatten = f2 ∧ (∀ p ∈ [f2.take 2, f2.drop 2], p ≠ []) ∧
    ({ State.reset with requests := [.rxPush (f2.take 2), .rxStep, .rxPush (f2.drop 2), .rxStep] } : State).requests =
      [f2.take 2, f2.drop 2].flatMap (fun p => [.rxPush p, .rxStep]) ++ [] :=
  ⟨rfl, rfl, .inl rfl, valid_f2, rfl, by decide, rfl⟩

theorem witness_StepPerformsOldestRequest :
    State.reset.requests = [] ∧ (State.reset.issue .crcRead).requests = .crcRead :: [] := ⟨rfl, rfl⟩

theorem witness_StepRunsDecodedFrame :
    ({ at_ 0xFFFF (f2 ++ f0) with requests := [.rxStep] } : State).requests = .rxStep :: [] ∧
    decodeFrame (f2 ++ f0) = .ok (.frameDataL2 0x01 0x02, f0) :=
  ⟨rfl, by decide +kernel⟩

theorem witness_RxStepDeliversExactlyTableFrames :
    exec .rxStep (at_ 0xFFFF f2) =
      .next { State.reset with output := .triple ⟨some FrameType.data.code, some [0x01, 0x02], 7 + 2⟩ } :=
  of_next? (by decide +kernel)

/-- A full buffer of the least capacity, on which a step still runs. -/
theorem witness_StepKeepsInvariant :
    ({ at_ 0xFFFF f8 with cfg := ⟨some 15, false⟩, requests := [.rxStep] } : State).Inv ∧
    step { at_ 0xFFFF f8 with cfg := ⟨some 15, false⟩, requests := [.rxStep] } =
      .next { State.reset with cfg := ⟨some 15, false⟩,
                               output := .triple ⟨some 0x02, some [1, 2, 3, 4, 5, 6, 7, 8], 15⟩ } :=
  ⟨⟨rfl, rfl⟩, of_next? (by decide +kernel)⟩

theorem witness_ReachableBufferWithinCapacity :
    (⟨some 15, true⟩ : Config).wf = true ∧
    Reaches { State.reset with cfg := ⟨some 15, true⟩ }
      { State.reset with cfg := ⟨some 15, true⟩, rxbuf := [0xAA], requests := [] } :=
  ⟨rfl, .step _ _ (.issue _ (.rxPush [0xAA]) .here) rfl⟩

theorem witness_RefusedExactlyOutsideContract :
    inContract (.rxPush [0x00]) { at_ 0xFFFF (List.replicate 14 0) with cfg := ⟨some 15, false⟩ } = true ∧
    inContract (.rxPush [0x00, 0x00]) { at_ 0xFFFF (List.replicate 14 0) with cfg := ⟨some 15, false⟩ } = false ∧
    inContract (.encode 0x03 []) State.reset = false := by
  decide

/-- A step that changes the accumulator and one that changes the buffer. -/
theorem witness_RegistersHaveOnlyNamedWriters :
    exec (.crcByte 0x01) State.reset = .next (at_ 0x807E []) ∧ (at_ 0x807E []).crcAcc ≠ State.reset.crcAcc ∧
    exec (.rxPush [0xAA]) State.reset = .next (at_ 0xFFFF [0xAA]) ∧ (at_ 0xFFFF [0xAA]).rxbuf ≠ State.reset.rxbuf :=
  ⟨of_next? (by decide +kernel), by decide, rfl, by decide⟩

theorem witness_PureOperationsIgnoreRegisters :
    (at_ 0x1234 [0xAA]).cfg = State.reset.cfg ∧
    exec (.crc16 [0x01]) (at_ 0x1234 [0xAA]) = .next { at_ 0x1234 [0xAA] with output := .word 0x807E } :=
  ⟨rfl, of_next? (by decide +kernel)⟩

theorem witness_AccumulatorIsIsolated :
    Instr.rxDrain ≠ .crcInit ∧ (∀ b : Byte, Instr.rxDrain ≠ .crcByte b) ∧ Instr.rxDrain ≠ .crcRead ∧ Instr.rxDrain ≠ .reset :=
  ⟨by decide, fun _ h => (by cases h), by decide, by decide⟩

theorem witness_InterleavingKeepsAccumulator :
    run [Request.crcByte 0x01, .rxStep].length { State.reset with requests := [.crcByte 0x01, .rxStep] } =
      .next { at_ 0x807E [] with output := .triple ⟨none, none, 0⟩ } := by
  rw [show [Request.crcByte 0x01, .rxStep].length = 1 + 1 from rfl,
    run_succ_of_request rfl rfl, run_succ_of_request (r := .rxStep) (rest := []) rfl rfl, run_zero]
  exact of_next? (by decide +kernel)

theorem witness_BufferIsIsolatedFromChecksum :
    ∃ i : Instr, i = .crcInit ∨ (∃ b : Byte, i = .crcByte b) ∨ i = .crcRead ∨ (∃ d : List Byte, i = .crc16 d) ∨
      (∃ (t : Byte) (p : List Byte), i = .encode t p) ∨ (∃ b : List Byte, i = .decode b) :=
  ⟨.decode f2, .inr (.inr (.inr (.inr (.inr ⟨f2, rfl⟩))))⟩

end Sys2Proof.Tests
end

section
/-!
What `ENCODE` can do, said once, and the layout of its frame (spec/20_memory.md R47).
-/
namespace Sys2Proof.Machine

/-! ### Reading a byte sequence by offset -/

theorem byteAt_append_left {a : List Byte} {i : Nat} (b : List Byte) (h : i < a.length) : byteAt (a ++ b) i = byteAt a i :=
  List.getD_append _ _ _ _ h

theorem byteAt_append_length_add (a b : List Byte) (k : Nat) : byteAt (a ++ b) (a.length + k) = byteAt b k := by
  rw [byteAt, List.getD_append_right _ _ _ _ (Nat.le_add_right ..), Nat.add_sub_cancel_left, byteAt]

/-- The length field of a legal frame has the high byte `0x00` (R47). -/
theorem hi8_ofNat_of_lt {n : Nat} (h : n < 256) : hi8 (BitVec.ofNat 16 n) = 0x00 := by
  apply BitVec.eq_of_toNat_eq
  rw [hi8_toNat, BitVec.toNat_ofNat, Nat.mod_eq_of_lt (h.trans (by decide))]
  exact Nat.div_eq_of_lt h

/-! ### What `ENCODE` can do -/

theorem encodeFrame_eq_ok_iff {type : Byte} {payload f : List Byte} :
    encodeFrame type payload = .ok f ↔
      assignedType type = true ∧ payload.length ≤ maxPayload ∧ f = frameBytes type payload := by
  unfold encodeFrame
  by_cases hty : assignedType type = true
  · by_cases hlen : payload.length ≤ maxPayload
    · simp only [hty, hlen, if_true, true_and, Except.ok.injEq]
      exact eq_comm
    · simp [hty, hlen]
  · simp [hty]

/-- `ENCODE` completes exactly inside its contract (R110, R111), and then only presents the frame (R112). -/
theorem exec_encode_eq_next_iff {type : Byte} {payload : List Byte} {s t : State} :
    exec (.encode type payload) s = .next t ↔
      assignedType type = true ∧ payload.length ≤ maxPayload ∧ t = s.present (.bytes (frameBytes type payload)) := by
  change execEncode type payload s = .next t ↔ _
  unfold execEncode
  cases e : encodeFrame type payload with
  | ok f =>
    obtain ⟨hty, hlen, rfl⟩ := encodeFrame_eq_ok_iff.mp e
    simp only [hty, hlen, true_and, Host.Outcome.next.injEq]
    exact eq_comm
  | error r =>
    refine ⟨nofun, fun ⟨hty, hlen, _⟩ => ?_⟩
    rw [encodeFrame_eq_ok_iff.mpr ⟨hty, hlen, rfl⟩] at e
    cases e

/-! ### The layout of the frame -/

section FrameBytes
variable (type : Byte) (payload : List Byte)

@[simp] theorem frameBytes_length : (frameBytes type payload).length = 7 + payload.length := by
  simp only [frameBytes, List.length_append, List.length_cons, List.length_nil]
  omega

@[simp] theorem byteAt_frameBytes_head : byteAt (frameBytes type payload) 0 = headByte := rfl

@[simp] theorem byteAt_frameBytes_type : byteAt (frameBytes type payload) 1 = type := rfl

@[simp] theorem byteAt_frameBytes_lenHigh : byteAt (frameBytes type payload) 2 = hi8 (BitVec.ofNat 16 payload.length) := rfl

@[simp] theorem byteAt_frameBytes_lenLow : byteAt (frameBytes type payload) 3 = lo8 (BitVec.ofNat 16 payload.length) := rfl

/-- From offset 4 on a frame is its payload and the three bytes after it. -/
theorem byteAt_frameBytes_four_add (i : Nat) :
    byteAt (frameBytes type payload) (4 + i) =
      byteAt (payload ++ [hi8 (crc16 payload), lo8 (crc16 payload), tailByte]) i := by
  rw [frameBytes, List.append_assoc, List.append_assoc]
  exact byteAt_append_length_add [headByte, type, hi8 _, lo8 _] _ i

theorem byteAt_frameBytes_payload {j : Nat} (h : j < payload.length) :
    byteAt (frameBytes type payload) (4 + j) = byteAt payload j := by
  rw [byteAt_frameBytes_four_add, byteAt_append_left _ h]

/-- Offset `4 + L + k` is byte `k` of crc high, crc low and tail. -/
theorem byteAt_frameBytes_trailer (k : Nat) :
    byteAt (frameBytes type payload) (4 + (payload.length + k)) =
      byteAt [hi8 (crc16 payload), lo8 (crc16 payload), tailByte] k := by
  rw [byteAt_frameBytes_four_add, byteAt_append_length_add]

@[simp] theorem byteAt_frameBytes_crcHigh : byteAt (frameBytes type payload) (4 + payload.length) = hi8 (crc16 payload) :=
  byteAt_frameBytes_trailer type payload 0

@[simp] theorem byteAt_frameBytes_crcLow : byteAt (frameBytes type payload) (5 + payload.length) = lo8 (crc16 payload) := by
  rw [show 5 + payload.length = 4 + (payload.length + 1) by omega, byteAt_frameBytes_trailer]
  rfl

@[simp] theorem byteAt_frameBytes_tail : byteAt (frameBytes type payload) (6 + payload.length) = tailByte := by
  rw [show 6 + payload.length = 4 + (payload.length + 2) by omega, byteAt_frameBytes_trailer]
  rfl

/-- The two length bytes, high byte first, hold the payload's length (R40, R43). -/
theorem frameBytes_lengthField (h : payload.length ≤ maxPayload) :
    256 * (byteAt (frameBytes type payload) 2).toNat + (byteAt (frameBytes type payload) 3).toNat = payload.length := by
  rw [byteAt_frameBytes_lenHigh, byteAt_frameBytes_lenLow, ← be16_toNat, be16_hi8_lo8, BitVec.toNat_ofNat]
  exact Nat.mod_eq_of_lt (h.trans_lt (by decide))

end FrameBytes

/-- Settles O10: `ENCODE` completes only inside its contract and then presents `frameBytes`, whose bytes are read off field
by field. -/
theorem encodedFrameLayout : Obligations.EncodedFrameLayout := by
  intro type payload s t f hexec hout
  obtain ⟨hty, hlen, rfl⟩ := exec_encode_eq_next_iff.mp hexec
  obtain rfl : frameBytes type payload = f := by simpa using hout
  have hhigh : byteAt (frameBytes type payload) 2 = 0x00 := hi8_ofNat_of_lt (hlen.trans_lt (by decide))
  exact ⟨frameBytes_length .., byteAt_frameBytes_head .., byteAt_frameBytes_type .., (assignedType_iff type).mp hty,
    hhigh, frameBytes_lengthField type payload hlen, hlen, fun _ hj => byteAt_frameBytes_payload type payload hj,
    byteAt_frameBytes_crcHigh .., byteAt_frameBytes_crcLow .., byteAt_frameBytes_tail ..⟩

end Sys2Proof.Machine
end

section
/-!
The valid and the well-typed frames (spec/20_memory.md R69) are the encoder's frames, and the decoder reads an encoder's
frame back; with injectivity this is the bijection of spec/30_encoding.md R75.
-/
namespace Sys2Proof.Machine

/-! ### A frame from its fields and its fields from a frame -/

theorem be16_eq_iff {h l : Byte} {v : U16} : be16 h l = v ↔ h = hi8 v ∧ l = lo8 v := by
  conv_lhs => rw [← be16_hi8_lo8 v]
  exact be16_inj

/-- The last three bytes by offset: crc high, crc low and tail of a frame (R47). -/
theorem drop_eq_byteAt_of_length {b : List Byte} {n : Nat} (h : b.length = n + 3) :
    b.drop n = [byteAt b n, byteAt b (n + 1), byteAt b (n + 2)] := by
  rw [byteAt_eq_getElem b n (by omega), byteAt_eq_getElem b (n + 1) (by omega), byteAt_eq_getElem b (n + 2) (by omega),
    List.drop_eq_getElem_cons, List.drop_eq_getElem_cons, List.drop_eq_getElem_cons, List.drop_of_length_le]
  omega

/-- Any `7 + n` bytes are four header bytes, `n` payload bytes and three trailer bytes (R47): no byte lies outside the
fields. -/
theorem eq_fields_of_length {f : List Byte} {n : Nat} (h : f.length = 7 + n) :
    f = [byteAt f 0, byteAt f 1, byteAt f 2, byteAt f 3] ++ slice f 4 (4 + n)
      ++ [byteAt f (4 + n), byteAt f (5 + n), byteAt f (6 + n)] := by
  have hhead : f.take 4 = [byteAt f 0, byteAt f 1, byteAt f 2, byteAt f 3] := by
    match f, h with
    | _ :: _ :: _ :: _ :: _, _ => rfl
    | [], h | [_], h | [_, _], h | [_, _, _], h => simp only [List.length_cons, List.length_nil] at h; omega
  have htail := drop_eq_byteAt_of_length (b := f) (n := 4 + n) (by omega)
  rw [show 4 + n + 1 = 5 + n by omega, show 4 + n + 2 = 6 + n by omega] at htail
  rw [← hhead, ← htail, slice, Nat.add_sub_cancel_left, List.append_assoc, ← List.drop_drop, List.take_append_drop,
    List.take_append_drop]

theorem frameBytes_eq_cons (type : Byte) (payload : List Byte) :
    frameBytes type payload =
      headByte :: type :: hi8 (BitVec.ofNat 16 payload.length) :: lo8 (BitVec.ofNat 16 payload.length) ::
        (payload ++ [hi8 (crc16 payload), lo8 (crc16 payload), tailByte]) := by
  simp [frameBytes]

@[simp] theorem slice_frameBytes (type : Byte) (payload : List Byte) :
    slice (frameBytes type payload) 4 (4 + payload.length) = payload := by
  simp [slice, frameBytes_eq_cons]

/-- The first half of R75: distinct pairs give distinct frames. -/
theorem frameBytes_inj {type type' : Byte} {payload payload' : List Byte}
    (h : frameBytes type payload = frameBytes type' payload') : type = type' ∧ payload = payload' := by
  have htype : type = type' := congrArg (byteAt · 1) h
  have hlen : payload.length = payload'.length := by simpa using congrArg List.length h
  refine ⟨htype, ?_⟩
  rw [← slice_frameBytes type payload, h, hlen, slice_frameBytes]

/-! ### The valid frames are the encoder's frames -/

theorem validFrame_frameBytes (type : Byte) {payload : List Byte} (h : payload.length ≤ maxPayload) :
    validFrame (frameBytes type payload) = true := by
  have hL : (be16 (byteAt (frameBytes type payload) 2) (byteAt (frameBytes type payload) 3)).toNat = payload.length := by
    rw [be16_toNat, frameBytes_lengthField type payload h]
  unfold validFrame
  rw [hL]
  simpa using h

/-- The tests of R69 leave no byte of a valid frame free but its type and its payload. -/
theorem eq_frameBytes_of_validFrame {f : List Byte} (h : validFrame f = true) :
    ∃ payload : List Byte, payload.length ≤ maxPayload ∧ f = frameBytes (byteAt f 1) payload := by
  unfold validFrame at h
  set L := (be16 (byteAt f 2) (byteAt f 3)).toNat with hL
  simp only [Bool.and_eq_true, decide_eq_true_eq, beq_iff_eq] at h
  obtain ⟨⟨⟨⟨⟨-, hhead⟩, hmax⟩, hlen⟩, hcrc⟩, htail⟩ := h
  have hpay : (slice f 4 (4 + L)).length = L := by rw [slice_length, hlen, overhead]; omega
  have hfield : be16 (byteAt f 2) (byteAt f 3) = BitVec.ofNat 16 L := by rw [hL, BitVec.ofNat_toNat, BitVec.setWidth_eq]
  obtain ⟨hh, hl⟩ := be16_eq_iff.mp hfield
  obtain ⟨hch, hcl⟩ := be16_eq_iff.mp hcrc
  refine ⟨slice f 4 (4 + L), hpay.symm ▸ hmax, (eq_fields_of_length hlen).trans ?_⟩
  rw [hhead, hh, hl, hch, hcl, htail, frameBytes, hpay, List.append_assoc _ [_, _] [_]]
  rfl

/-- The other half of R75: the well-typed frames are the encodings of the pairs in contract. -/
theorem wellTypedFrame_iff {f : List Byte} :
    wellTypedFrame f = true ↔
      ∃ (type : Byte) (payload : List Byte),
        assignedType type = true ∧ payload.length ≤ maxPayload ∧ f = frameBytes type payload := by
  rw [wellTypedFrame, Bool.and_eq_true]
  constructor
  · rintro ⟨hvalid, hty⟩
    obtain ⟨payload, hlen, hf⟩ := eq_frameBytes_of_validFrame hvalid
    exact ⟨byteAt f 1, payload, hty, hlen, hf⟩
  · rintro ⟨type, payload, hty, hlen, rfl⟩
    exact ⟨validFrame_frameBytes type hlen, hty⟩

/-! ### The decoder reads an encoder's frame back -/

/-- Whatever follows the frame, the decoder delivers it; with `STRICT_TYPE` its type must be assigned (R129, D5). -/
theorem examine_frameBytes_append {strict : Bool} {type : Byte} {payload : List Byte} (rest : List Byte)
    (hlen : payload.length ≤ maxPayload) (hty : strict = false ∨ assignedType type = true) :
    examine strict (frameBytes type payload ++ rest) = .frame type payload := by
  have hL : (BitVec.ofNat 16 payload.length).toNat = payload.length :=
    Nat.mod_eq_of_lt (hlen.trans_lt (by decide))
  have hstrict : (strict && !assignedType type) = false := by
    rcases hty with h | h <;> simp [h]
  have key := examine_complete strict (t := type) (h := hi8 (BitVec.ofNat 16 payload.length))
    (l := lo8 (BitVec.ofNat 16 payload.length)) (ch := hi8 (crc16 payload)) (cl := lo8 (crc16 payload))
    (tail := tailByte) (p := payload) rest
    (by rwa [be16_hi8_lo8, hL]) (by rw [be16_hi8_lo8, hL])
  simpa [frameBytes_eq_cons, hstrict] using key

theorem exec_decode_frameBytes {type : Byte} {payload : List Byte} (s : State)
    (hlen : payload.length ≤ maxPayload) (hty : assignedType type = true) :
    exec (.decode (frameBytes type payload)) s =
      .next (s.present (.triple ⟨some type, some payload, 7 + payload.length⟩)) := by
  have hexam := examine_frameBytes_append (strict := s.cfg.strictType) [] hlen (.inr hty)
  rw [List.append_nil] at hexam
  change execDecode _ s = _
  rw [execDecode, decode, hexam]
  rfl

/-- Settles O11: the well-typed frames are the frames `ENCODE` presents, `frameBytes` is injective, and `DECODE` reads a
frame back. -/
theorem encodeIsBijectionOntoWellTypedFrames : Obligations.EncodeIsBijectionOntoWellTypedFrames := by
  intro f s
  rw [wellTypedFrame_iff]
  constructor
  · rintro ⟨type, payload, hty, hlen, rfl⟩
    refine ⟨type, payload, exec_encode_eq_next_iff.mpr ⟨hty, hlen, rfl⟩, exec_decode_frameBytes s hlen hty, ?_⟩
    intro type' payload' hexec
    obtain ⟨-, -, hpresent⟩ := exec_encode_eq_next_iff.mp hexec
    have hframe : frameBytes type payload = frameBytes type' payload' := by
      simpa using congrArg State.output hpresent
    obtain ⟨rfl, rfl⟩ := frameBytes_inj hframe
    exact ⟨rfl, rfl⟩
  · rintro ⟨type, payload, hexec, -⟩
    obtain ⟨hty, hlen, hpresent⟩ := exec_encode_eq_next_iff.mp hexec
    exact ⟨type, payload, hty, hlen, by simpa using congrArg State.output hpresent⟩

end Sys2Proof.Machine
end

section
/-!
The checksum's bit step and byte step (R91): an equation per case of `crcBit`, the unrolling of `crcBits`, and the byte
step as eight bit steps.
-/
namespace Sys2Proof.Machine

/-! ### The bit step and the byte step -/

theorem crcBit_of_lsb {acc : U16} (h : acc.getLsbD 0 = true) : crcBit acc = (acc >>> 1) ^^^ crcPoly := if_pos h

theorem crcBit_of_not_lsb {acc : U16} (h : acc.getLsbD 0 = false) : crcBit acc = acc >>> 1 :=
  if_neg (Bool.eq_false_iff.mp h)

@[simp] theorem crcBits_zero (acc : U16) : crcBits 0 acc = acc := rfl

@[simp] theorem crcBits_succ (n : Nat) (acc : U16) : crcBits (n + 1) acc = crcBits n (crcBit acc) := rfl

/-- The byte is XORed in once, before the first of the eight bit steps. -/
theorem crcUpdate_eq_crcBits (acc : U16) (b : Byte) : crcUpdate acc b = crcBits 8 (acc ^^^ zext16 b) := rfl

/-- Settles O2: the two cases of the bit step, the byte step unrolled over its count of eight, and the trace of R91
evaluated. -/
theorem crcUpdateIsEightBitSteps : Obligations.CrcUpdateIsEightBitSteps := by
  refine ⟨fun _ => crcBit_of_lsb, fun _ => crcBit_of_not_lsb, fun acc b => ?unrolled, ?trace⟩
  case unrolled => simp only [crcUpdate_eq_crcBits, crcBits_succ, crcBits_zero, zext16]
  case trace => decide

end Sys2Proof.Machine
end

section
/-!
The encoder's frame in the bytes of spec/41_encode.md R112, and which requests outside the contract get which refusal
(R110, R111).
-/
namespace Sys2Proof.Machine

/-! ### The frame in the rule's bytes -/

theorem lo8_ofNat (n : Nat) : lo8 (BitVec.ofNat 16 n) = BitVec.ofNat 8 n := by
  apply BitVec.eq_of_toNat_eq
  rw [lo8_toNat, BitVec.toNat_ofNat, BitVec.toNat_ofNat]
  exact Nat.mod_mod_of_dvd n (by decide)

/-- A legal length fits in one byte, so the two length bytes are `0x00` and the length itself (R112, R47). -/
theorem frameBytes_of_length_le (type : Byte) {payload : List Byte} (h : payload.length ≤ maxPayload) :
    frameBytes type payload =
      [0xAA, type, 0x00, BitVec.ofNat 8 payload.length] ++ payload
        ++ [hi8 (crc16 payload), lo8 (crc16 payload)] ++ [0x55] := by
  rw [frameBytes, hi8_ofNat_of_lt (h.trans_lt (by decide)), lo8_ofNat]

/-! ### The refusals of `ENCODE` -/

/-- The type is tested first: whatever the payload, it is refused (R111, R112). -/
theorem encodeFrame_of_not_assignedType {type : Byte} (payload : List Byte) (h : ¬ assignedType type = true) :
    encodeFrame type payload = .error .badType :=
  if_neg h

theorem encodeFrame_of_maxPayload_lt {type : Byte} {payload : List Byte} (hty : assignedType type = true)
    (hlen : maxPayload < payload.length) : encodeFrame type payload = .error .payloadTooLong :=
  (if_pos hty).trans (if_neg (Nat.not_le_of_lt hlen))

/-- What `encodeFrame` refuses, `ENCODE` refuses with the same name, in every state (R187). -/
theorem exec_encode_of_error {type : Byte} {payload : List Byte} {r : Refusal}
    (h : encodeFrame type payload = .error r) (s : State) : exec (.encode type payload) s = .refused r := by
  change execEncode type payload s = _
  rw [execEncode, h]

/-- Settles O8: a case per outcome of `encodeFrame`; in contract, `frameBytes` is the rule's byte sequence. -/
theorem encodeBuildsFrameOrRefuses : Obligations.EncodeBuildsFrameOrRefuses := by
  intro type payload s
  rw [← assignedType_iff]
  refine ⟨fun hty hlen => ?frame, fun hty hlen => ?tooLong, fun hcmd hdata => ?badType⟩
  case frame => rw [← frameBytes_of_length_le type hlen]; exact exec_encode_eq_next_iff.mpr ⟨hty, hlen, rfl⟩
  case tooLong => exact exec_encode_of_error (encodeFrame_of_maxPayload_lt hty hlen) s
  case badType =>
    have hty : ¬ assignedType type = true := by rw [assignedType_iff]; exact not_or.mpr ⟨hcmd, hdata⟩
    exact exec_encode_of_error (encodeFrame_of_not_assignedType payload hty) s

end Sys2Proof.Machine
end

section
/-!
The checksum is injective in each byte of its data: `crcBit`, and with it `crcUpdate`, is injective in the accumulator, so
one changed byte changes the checksum (spec/40_crc16.md R96, R97).
-/
namespace Sys2Proof.Machine

/-! ### The steps of the checksum are injective -/

/-- The bit shifted out is not lost: the polynomial puts it back at the top (R96). -/
theorem getLsbD_crcBit_fifteen (acc : U16) : (crcBit acc).getLsbD 15 = acc.getLsbD 0 := by
  cases h : acc.getLsbD 0 with
  | false => simp [crcBit_of_not_lsb h]
  | true => simp [crcBit_of_lsb h]

theorem crcBit_injective : Function.Injective crcBit := by
  intro a b e
  have hlsb : a.getLsbD 0 = b.getLsbD 0 := by rw [← getLsbD_crcBit_fifteen, e, getLsbD_crcBit_fifteen]
  have hshift : a >>> 1 = b >>> 1 := by
    cases hb : b.getLsbD 0 with
    | false => rwa [crcBit_of_not_lsb (hlsb.trans hb), crcBit_of_not_lsb hb] at e
    | true => rwa [crcBit_of_lsb (hlsb.trans hb), crcBit_of_lsb hb, BitVec.xor_left_inj] at e
  refine BitVec.eq_of_getLsbD_eq fun i _ => ?_
  cases i with
  | zero => exact hlsb
  | succ i => simpa [BitVec.getLsbD_ushiftRight, Nat.add_comm 1] using congrArg (BitVec.getLsbD · i) hshift

theorem crcBits_injective (n : Nat) : Function.Injective (crcBits n) := by
  induction n with
  | zero => exact Function.injective_id
  | succ n ih => exact ih.comp crcBit_injective

theorem crcUpdate_left_injective (b : Byte) : Function.Injective (crcUpdate · b) :=
  fun _ _ e => (BitVec.xor_left_inj _).mp (crcBits_injective 8 e)

theorem zext16_injective : Function.Injective zext16 := by
  intro a b e
  apply BitVec.eq_of_toNat_eq
  simpa only [zext16, BitVec.toNat_setWidth_of_le (show 8 ≤ 16 by decide)] using congrArg BitVec.toNat e

theorem crcUpdate_right_injective (acc : U16) : Function.Injective (crcUpdate acc) :=
  fun _ _ e => zext16_injective ((BitVec.xor_right_inj _).mp (crcBits_injective 8 e))

theorem crcFrom_injective (data : List Byte) : Function.Injective (crcFrom · data) := by
  induction data with
  | nil => exact Function.injective_id
  | cons b bs ih => exact ih.comp (crcUpdate_left_injective b)

/-! ### One changed byte changes the checksum -/

theorem crcFrom_set_ne {data : List Byte} {j : Nat} {x : Byte} (acc : U16) (hj : j < data.length)
    (hx : x ≠ byteAt data j) : crcFrom acc (data.set j x) ≠ crcFrom acc data := by
  induction data generalizing acc j with
  | nil => exact absurd hj (Nat.not_lt_zero j)
  | cons b bs ih =>
    cases j with
    | zero => exact fun e => hx (crcUpdate_right_injective acc (crcFrom_injective bs e))
    | succ j => exact ih (crcUpdate acc b) (Nat.lt_of_succ_lt_succ hj) hx

theorem xor_oneBit_ne (x : Byte) {k : Nat} (hk : k < 8) : x ^^^ (1#8 <<< k) ≠ x := by
  have hbit : ∀ k < 8, 1#8 <<< k ≠ 0#8 := by decide
  exact mt xor_left_eq_self_iff.mp (hbit k hk)

/-- The second half of R97, at any length. -/
theorem crc16_flipBit_ne {data : List Byte} {j k : Nat} (hj : j < data.length) (hk : k < 8) :
    crc16 (flipBit data j k) ≠ crc16 data :=
  crcFrom_set_ne crcStart hj (xor_oneBit_ne (byteAt data j) hk)

end Sys2Proof.Machine
end

section
/-!
`DECODE` by its verdict (spec/42_decode.md R120, R181), and the rules of the decoder that follow from one verdict each.
-/
namespace Sys2Proof.Machine

/-- `DECODE` presents the result of the decoder's verdict and changes nothing else. -/
theorem exec_decode_of_examine {s : State} {buf : List Byte} {v : Verdict} (h : examine s.cfg.strictType buf = v) :
    exec (.decode buf) s = .next (s.present (.triple v.result)) := by
  subst h
  rfl

theorem exec_rxStep (s : State) : exec .rxStep s = .next s.rxStep := rfl

/-! ### A complete candidate as the rules write it -/

section Candidate
variable {t h l ch cl tail : Byte} {p : List Byte} (strict : Bool) (rest : List Byte)

theorem examine_badCrc (hL : (be16 h l).toNat ≤ 8) (hp : p.length = (be16 h l).toNat) (hc : crc16 p ≠ be16 ch cl) :
    examine strict ([headByte, t, h, l] ++ p ++ [ch, cl, tail] ++ rest) = .badCrc := by
  simpa using (examine_complete strict rest hL hp).trans (if_pos hc)

theorem examine_badTail (hL : (be16 h l).toNat ≤ 8) (hp : p.length = (be16 h l).toNat) (hc : crc16 p = be16 ch cl)
    (ht : tail ≠ tailByte) : examine strict ([headByte, t, h, l] ++ p ++ [ch, cl, tail] ++ rest) = .badTail := by
  simpa using (examine_complete strict rest hL hp).trans ((if_neg (not_not_intro hc)).trans (if_pos ht))

end Candidate

/-! ### Round trip and rejections -/

/-- Settles O30: inside its contract `ENCODE` presents `frameBytes`, and the decoder delivers that frame whatever follows
it, under either `STRICT_TYPE`. -/
theorem decodeOfEncodeRoundTrip : Obligations.DecodeOfEncodeRoundTrip := by
  intro type payload s u hty hlen
  rw [← assignedType_iff] at hty
  exact ⟨frameBytes type payload, exec_encode_eq_next_iff.mpr ⟨hty, hlen, rfl⟩,
    fun rest => exec_decode_of_examine (examine_frameBytes_append rest hlen (.inr hty))⟩

/-- Settles O20: the verdict is `badLength`, whatever follows the header. -/
theorem decodeRejectsIllegalLength : Obligations.DecodeRejectsIllegalLength := by
  intro s t h l rest hL
  rw [← be16_toNat] at hL
  exact exec_decode_of_examine (examine_badLength _ rest hL)

/-- Settles O21: the verdict is `needBody`. -/
theorem decodeWaitsForBody : Obligations.DecodeWaitsForBody := by
  intro s t h l rest hL hshort
  rw [← be16_toNat] at hL hshort
  exact exec_decode_of_examine (examine_needBody _ hL (by omega))

/-- Settles O22: the verdict is `badCrc`, of the resynchronize class, so that `RX.STEP` drops the head alone. -/
theorem decodeRejectsBadCrc : Obligations.DecodeRejectsBadCrc := by
  intro s t h l ch cl tail payload rest hL hp hc
  rw [← be16_toNat] at hL hp hc
  have hverdict : examine s.cfg.strictType ([0xAA, t, h, l] ++ payload ++ [ch, cl, tail] ++ rest) = .badCrc :=
    examine_badCrc _ rest hL hp fun e => hc (congrArg BitVec.toNat e.symm)
  refine ⟨exec_decode_of_examine hverdict, fun hbuf => ?step⟩
  case step =>
    rw [exec_rxStep, rxStep_of_resynchronize (by rw [hbuf, hverdict]; rfl), State.resync, State.consume, hbuf]
    rfl

/-- Settles O23: the verdict is `badTail`. -/
theorem decodeRejectsBadTail : Obligations.DecodeRejectsBadTail := by
  intro s t h l ch cl tail payload rest hL hp hc ht
  rw [← be16_toNat] at hL hp hc
  exact exec_decode_of_examine (examine_badTail _ rest hL hp (BitVec.eq_of_toNat_eq hc.symm) ht)

/-! ### Garbage before a valid frame -/

/-- R129 for a valid frame in the terms of R69: its payload is what stands between header and trailer. -/
theorem examine_validFrame_append {strict : Bool} {f : List Byte} (rest : List Byte) (hf : validFrame f = true)
    (hty : strict = false ∨ assignedType (byteAt f 1) = true) :
    examine strict (f ++ rest) = .frame (byteAt f 1) (slice f 4 (f.length - 3)) ∧
      overhead + (slice f 4 (f.length - 3)).length = f.length := by
  obtain ⟨payload, hlen, hfb⟩ := eq_frameBytes_of_validFrame hf
  generalize byteAt f 1 = type at *
  subst hfb
  have hend : (frameBytes type payload).length - 3 = 4 + payload.length := by rw [frameBytes_length]; omega
  rw [hend, slice_frameBytes, frameBytes_length]
  exact ⟨examine_frameBytes_append rest hlen hty, rfl⟩

theorem eq_headByte_cons_of_validFrame {f : List Byte} (hf : validFrame f = true) :
    ∃ body : List Byte, f = headByte :: body ∧ 6 ≤ body.length := by
  obtain ⟨payload, -, hfb⟩ := eq_frameBytes_of_validFrame hf
  refine ⟨_, hfb.trans (frameBytes_eq_cons _ _), ?_⟩
  simp only [List.length_cons, List.length_append, List.length_nil]
  omega

/-- Settles O31: the first head is the frame's, so the verdicts are `skipPrefix` and then `frame`. -/
theorem garbagePrefixThenFrame : Obligations.GarbagePrefixThenFrame := by
  intro s g f hf hg hn hty
  rw [← assignedType_iff] at hty
  constructor
  · obtain ⟨body, rfl, hbody⟩ := eq_headByte_cons_of_validFrame hf
    refine exec_decode_of_examine (examine_skipPrefix _ hg hn ?_)
    simp only [List.length_append, List.length_cons]
    omega
  · obtain ⟨hverdict, hlen⟩ := examine_validFrame_append [] hf hty
    rw [List.append_nil] at hverdict
    rw [exec_decode_of_examine hverdict, Verdict.result, hlen]
    rfl

end Sys2Proof.Machine
end

section
/-!
One flipped bit behind the header of a valid frame (spec/42_decode.md R137): in payload or crc field the checksum no longer
fits, in the tail the tail byte is wrong.
-/
namespace Sys2Proof.Machine

/-! ### A flipped bit in one of two pieces -/

theorem flipBit_append_left {a : List Byte} {j : Nat} (b : List Byte) (k : Nat) (h : j < a.length) :
    flipBit (a ++ b) j k = flipBit a j k ++ b := by
  rw [flipBit, byteAt_append_left b h, List.set_append_left _ _ h, flipBit]

theorem flipBit_append_length_add (a b : List Byte) (j k : Nat) :
    flipBit (a ++ b) (a.length + j) k = a ++ flipBit b j k := by
  rw [flipBit, byteAt_append_length_add, List.set_append_right _ _ (Nat.le_add_right ..), Nat.add_sub_cancel_left, flipBit]

@[simp] theorem flipBit_length (f : List Byte) (j k : Nat) : (flipBit f j k).length = f.length :=
  List.length_set

/-! ### The three fields of a frame -/

/-- The four bytes before the payload (R47). -/
def frameHeader (type : Byte) (n : Nat) : List Byte :=
  [headByte, type, hi8 (BitVec.ofNat 16 n), lo8 (BitVec.ofNat 16 n)]

/-- The three bytes after the payload, crc field and tail (R47). -/
def frameTrailer (payload : List Byte) : List Byte :=
  [hi8 (crc16 payload), lo8 (crc16 payload), tailByte]

theorem frameBytes_eq_fields (type : Byte) (payload : List Byte) :
    frameBytes type payload = frameHeader type payload.length ++ (payload ++ frameTrailer payload) :=
  frameBytes_eq_cons type payload

theorem be16_lengthField {payload : List Byte} (h : payload.length ≤ maxPayload) :
    (be16 (hi8 (BitVec.ofNat 16 payload.length)) (lo8 (BitVec.ofNat 16 payload.length))).toNat = payload.length :=
  (be16_toNat ..).trans (frameBytes_lengthField 0x01 payload h)

section FlippedFrame
variable (type : Byte) {payload : List Byte} {k : Nat}

theorem flipBit_frameBytes_four_add (i : Nat) :
    flipBit (frameBytes type payload) (4 + i) k =
      frameHeader type payload.length ++ flipBit (payload ++ frameTrailer payload) i k := by
  rw [frameBytes_eq_fields]
  exact flipBit_append_length_add (frameHeader type payload.length) _ i k

theorem flipBit_frameBytes_payload {i : Nat} (hi : i < payload.length) :
    flipBit (frameBytes type payload) (4 + i) k =
      frameHeader type payload.length ++ flipBit payload i k ++ frameTrailer payload := by
  rw [flipBit_frameBytes_four_add, flipBit_append_left _ _ hi, List.append_assoc]

theorem flipBit_frameBytes_trailer (m : Nat) :
    flipBit (frameBytes type payload) (4 + (payload.length + m)) k =
      frameHeader type payload.length ++ payload ++ flipBit (frameTrailer payload) m k := by
  rw [flipBit_frameBytes_four_add, flipBit_append_length_add, List.append_assoc]

/-! ### The verdict on the flipped frame -/

variable (strict : Bool) (rest : List Byte) (hlen : payload.length ≤ maxPayload) (hk : k < 8)
include hlen hk

theorem examine_flipBit_payload {i : Nat} (hi : i < payload.length) :
    examine strict (flipBit (frameBytes type payload) (4 + i) k ++ rest) = .badCrc := by
  have hL := be16_lengthField hlen
  rw [flipBit_frameBytes_payload type hi]
  refine examine_badCrc strict rest (hL.trans_le hlen) ((flipBit_length ..).trans hL.symm) ?_
  rw [be16_hi8_lo8]
  exact crc16_flipBit_ne hi hk

theorem examine_flipBit_crcField {m : Nat} (hm : m < 2) :
    examine strict (flipBit (frameBytes type payload) (4 + (payload.length + m)) k ++ rest) = .badCrc := by
  have hL := be16_lengthField hlen
  rw [flipBit_frameBytes_trailer]
  match m, hm with
  | 0, _ => exact examine_badCrc strict rest (hL.trans_le hlen) hL.symm fun e =>
      xor_oneBit_ne _ hk (be16_eq_iff.mp e.symm).1
  | 1, _ => exact examine_badCrc strict rest (hL.trans_le hlen) hL.symm fun e =>
      xor_oneBit_ne _ hk (be16_eq_iff.mp e.symm).2

theorem examine_flipBit_tail :
    examine strict (flipBit (frameBytes type payload) (4 + (payload.length + 2)) k ++ rest) = .badTail := by
  have hL := be16_lengthField hlen
  rw [flipBit_frameBytes_trailer]
  exact examine_badTail strict rest (hL.trans_le hlen) hL.symm (be16_hi8_lo8 _).symm (xor_oneBit_ne tailByte hk)

end FlippedFrame

/-- Settles O32: a case per field the bit is in; the verdict is `badCrc` or `badTail`. -/
theorem singleBitCorruptionCostsOneByte : Obligations.SingleBitCorruptionCostsOneByte := by
  intro s f rest j k hf hj4 hj hk
  obtain ⟨payload, hlen, hfb⟩ := eq_frameBytes_of_validFrame hf
  generalize byteAt f 1 = type at hfb
  subst hfb
  rw [frameBytes_length] at hj
  obtain ⟨i, rfl⟩ := Nat.exists_eq_add_of_le hj4
  by_cases hi : i < payload.length
  · exact exec_decode_of_examine (examine_flipBit_payload type _ rest hlen hk hi)
  obtain ⟨m, rfl⟩ := Nat.exists_eq_add_of_le (Nat.le_of_not_lt hi)
  by_cases hm : m < 2
  · exact exec_decode_of_examine (examine_flipBit_crcField type _ rest hlen hk hm)
  · obtain rfl : m = 2 := by omega
    exact exec_decode_of_examine (examine_flipBit_tail type _ rest hlen hk)

end Sys2Proof.Machine
end

section
/-!
The outcomes of the resynchronize class (spec/60_exceptions.md R181, R184): the buffer starts with a head, and that head is
all that `RX.STEP` removes.
-/
namespace Sys2Proof.Machine

theorem Verdict.result_of_resynchronize {v : Verdict} (hv : v.class = .resynchronize) : v.result = ⟨none, none, 1⟩ := by
  cases v with
  | badLength | badCrc | badTail | badType => rfl
  | needHeader | noHead | skipPrefix | needHeaderAtHead | needBody | frame => cases hv

/-- A candidate is rejected only once its head stands at offset 0. -/
theorem Examined.exists_headByte_cons {strict : Bool} {buf : List Byte} {v : Verdict} (he : Examined strict buf v)
    (hv : v.class = .resynchronize) : ∃ rest : List Byte, buf = headByte :: rest := by
  cases he with
  | badLength | badCrc | badTail | badType => exact ⟨_, rfl⟩
  | needHeader | noHead | skipPrefix | needBody | frame => cases hv

theorem exec_decode_of_resynchronize {s : State} {buf : List Byte}
    (h : (examine s.cfg.strictType buf).class = .resynchronize) :
    exec (.decode buf) s = .next (s.present (.triple ⟨none, none, 1⟩)) := by
  rw [exec_decode_of_examine rfl, Verdict.result_of_resynchronize h]

theorem exec_rxStep_of_resynchronize {s : State} {b : Byte} {rest : List Byte} (hbuf : s.rxbuf = b :: rest)
    (h : (examine s.cfg.strictType s.rxbuf).class = .resynchronize) :
    exec .rxStep s = .next { s with rxbuf := rest, output := .triple ⟨none, none, 1⟩ } := by
  rw [exec_rxStep, rxStep_of_resynchronize h, State.resync, State.consume, hbuf]
  rfl

/-- Settles O36: the three outcomes are of the resynchronize class, whose buffers start with a head. -/
theorem resyncDropsOnlyFalseHead : Obligations.ResyncDropsOnlyFalseHead := by
  intro s hs
  have hclass : (examine s.cfg.strictType s.rxbuf).class = .resynchronize := by
    rcases hs with h | h | h <;> rw [h] <;> rfl
  obtain ⟨rest, hbuf⟩ := (examined s.cfg.strictType s.rxbuf).exists_headByte_cons hclass
  exact ⟨exec_decode_of_resynchronize hclass, rest, hbuf, exec_rxStep_of_resynchronize hbuf hclass⟩

end Sys2Proof.Machine
end

section
/-!
The table decoder (spec/30_encoding.md R74) accepts exactly the frames of the 18 kinds: what each of its parts answers, and
from that one equivalence for `decodeFrame`.
-/
namespace Sys2Proof.Machine

/-! ### A frame kind and its type and payload -/

theorem length_le_of_frame? {i : Instr} {type : FrameType} {payload : List Byte} (h : i.frame? = some (type, payload)) :
    payload.length ≤ maxPayload := by
  cases i <;> simp only [Instr.frame?, reduceCtorEq, Option.some.injEq, Prod.mk.injEq] at h <;>
    obtain ⟨-, rfl⟩ := h <;> simp

theorem ofFrame_of_frame? {i : Instr} {type : FrameType} {payload : List Byte} (h : i.frame? = some (type, payload)) :
    Instr.ofFrame type payload = some i := by
  cases i <;> simp only [Instr.frame?, reduceCtorEq, Option.some.injEq, Prod.mk.injEq] at h <;>
    obtain ⟨rfl, rfl⟩ := h <;> rfl

theorem frame?_of_ofFrame {i : Instr} {type : FrameType} {payload : List Byte} (h : Instr.ofFrame type payload = some i) :
    i.frame? = some (type, payload) := by
  unfold Instr.ofFrame at h
  split at h <;> cases h <;> rfl

theorem ofFrame_eq_some_iff {i : Instr} {type : FrameType} {payload : List Byte} :
    Instr.ofFrame type payload = some i ↔ i.frame? = some (type, payload) :=
  ⟨frame?_of_ofFrame, ofFrame_of_frame?⟩

/-- Every legal payload makes a frame kind of either type: the table has a row for each length. -/
theorem ofFrame_isSome_of_length_le (type : FrameType) {payload : List Byte} (h : payload.length ≤ maxPayload) :
    (Instr.ofFrame type payload).isSome = true := by
  match payload, h with
  | [], _ | [_], _ | [_, _], _ | [_, _, _], _ | [_, _, _, _], _ | [_, _, _, _, _], _ | [_, _, _, _, _, _], _
  | [_, _, _, _, _, _, _], _ | [_, _, _, _, _, _, _, _], _ => cases type <;> rfl
  | _ :: _ :: _ :: _ :: _ :: _ :: _ :: _ :: _ :: _, h => simp only [List.length_cons, maxPayload] at h; omega

/-! ### The rows of the table -/

theorem headerBytes_kindHeader (type : FrameType) {n : Nat} (h : n ≤ maxPayload) :
    headerBytes (kindHeader type n) = frameHeader type.code n := by
  have hrows : ∀ n ≤ maxPayload, headerBytes (kindHeader type n) = frameHeader type.code n := by cases type <;> decide
  exact hrows n h

/-- The table's bytes of a kind are the encoder's bytes (R74, R112). -/
theorem frameWords_eq_frameBytes (type : FrameType) {payload : List Byte} (h : payload.length ≤ maxPayload) :
    frameWords type payload = frameBytes type.code payload := by
  rw [frameWords, headerBytes_kindHeader type h, frameBytes_eq_fields, List.append_assoc]
  rfl

theorem encode_of_frame? {i : Instr} {type : FrameType} {payload : List Byte} (h : i.frame? = some (type, payload)) :
    encode i = frameBytes type.code payload := by
  simp only [encode, h, frameWords_eq_frameBytes type (length_le_of_frame? h)]

theorem lookupRow_frameHeader (type : FrameType) {n : Nat} (h : n ≤ maxPayload) :
    lookupRow (frameHeader type.code n) = some ⟨kindHeader type n, type, n⟩ := by
  have hrows : ∀ n ≤ maxPayload, lookupRow (frameHeader type.code n) = some ⟨kindHeader type n, type, n⟩ := by
    cases type <;> decide
  exact hrows n h

/-- A row is found only by the header of its own type and length: all 32 bits are significant. -/
theorem eq_frameHeader_of_lookupRow {hdr : List Byte} {r : FrameRow} (h : lookupRow hdr = some r) :
    r.len ≤ maxPayload ∧ hdr = frameHeader r.type.code r.len := by
  have hrows : ∀ r ∈ frameTable, r.len ≤ maxPayload ∧ headerBytes r.hdr = frameHeader r.type.code r.len := by decide
  obtain ⟨hlen, hbytes⟩ := hrows r (List.mem_of_find?_eq_some h)
  have hmatch : headerBytes r.hdr = hdr := by simpa using List.find?_some h
  exact ⟨hlen, hmatch.symm.trans hbytes⟩

/-! ### What the table decoder accepts -/

/-- The crc field and the tail are checked against the payload, and no byte before `rest` is left unread. -/
theorem decodeBody_eq_ok_iff {type : FrameType} {n : Nat} {body rest : List Byte} {i : Instr} :
    decodeBody type n body = .ok (i, rest) ↔
      i.frame? = some (type, body.take n) ∧ body.drop n = frameTrailer (body.take n) ++ rest := by
  rw [← ofFrame_eq_some_iff, decodeBody]
  generalize body.take n = payload
  split
  next ch cl tail after hdrop =>
    have hfields : body.drop n = frameTrailer payload ++ rest ↔
        crc16 payload = be16 ch cl ∧ tail = tailByte ∧ after = rest := by
      rw [hdrop, eq_comm (a := crc16 payload), be16_eq_iff, and_assoc]
      simp [frameTrailer]
    rw [hfields]
    by_cases hcrc : crc16 payload = be16 ch cl
    · by_cases htail : tail = 0x55#8
      · cases Instr.ofFrame type payload <;> simp [hcrc, htail]
      · simp [hcrc, htail]
    · simp [hcrc]
  next hshort =>
    exact ⟨nofun, fun ⟨_, hdrop⟩ => (hshort _ _ _ _ hdrop).elim⟩

/-- The table decoder accepts exactly the frames of the 18 kinds, whatever follows them. -/
theorem decodeFrame_eq_ok_iff {buf rest : List Byte} {i : Instr} :
    decodeFrame buf = .ok (i, rest) ↔
      ∃ (type : FrameType) (payload : List Byte),
        i.frame? = some (type, payload) ∧ buf = frameBytes type.code payload ++ rest := by
  constructor
  · intro h
    unfold decodeFrame at h
    split at h
    · split at h
      next b0 b1 b2 b3 body _ r hrow =>
        obtain ⟨hlen, hhdr⟩ := eq_frameHeader_of_lookupRow hrow
        obtain ⟨hkind, htrailer⟩ := decodeBody_eq_ok_iff.mp h
        have hn : (body.take r.len).length = r.len := by
          have := congrArg List.length htrailer
          simp only [List.length_drop, List.length_append, frameTrailer, List.length_cons] at this
          rw [List.length_take]
          omega
        refine ⟨r.type, body.take r.len, hkind, ?_⟩
        rw [frameBytes_eq_fields, hn, ← hhdr, List.append_assoc, List.append_assoc, ← htrailer, List.take_append_drop]
        rfl
      next => cases h
    · cases h
  · rintro ⟨type, payload, hkind, rfl⟩
    have hrow := lookupRow_frameHeader type (length_le_of_frame? hkind)
    rw [frameHeader] at hrow
    have hbody : decodeBody type payload.length (payload ++ (frameTrailer payload ++ rest)) = .ok (i, rest) :=
      decodeBody_eq_ok_iff.mpr ⟨by rwa [List.take_left], by rw [List.drop_left, List.take_left]⟩
    rw [frameBytes_eq_fields, frameHeader, List.append_assoc, List.append_assoc]
    simpa only [List.cons_append, List.nil_append, decodeFrame, hrow] using hbody

/-- Settles O13: the frame of a kind is `frameBytes` of its type and payload, which the table decoder accepts. -/
theorem tableDecodeOfEncode : Obligations.TableDecodeOfEncode := by
  intro i rest hframe
  obtain ⟨⟨type, payload⟩, h⟩ := Option.isSome_iff_exists.mp hframe
  exact decodeFrame_eq_ok_iff.mpr ⟨type, payload, h, by rw [encode_of_frame? h]⟩

/-- Settles O14: the other direction of the same equivalence. -/
theorem tableDecodeAcceptsOnlyEncodings : Obligations.TableDecodeAcceptsOnlyEncodings := by
  intro buf rest i hdecode
  obtain ⟨type, payload, h, rfl⟩ := decodeFrame_eq_ok_iff.mp hdecode
  exact ⟨by rw [h]; rfl, by rw [encode_of_frame? h]⟩

/-- Settles O12: in contract `ENCODE` presents `frameBytes`, which are the table's bytes of the kind. -/
theorem tableWordsAgreeWithEncode : Obligations.TableWordsAgreeWithEncode := by
  intro i type payload h s
  rw [encode_of_frame? h]
  exact exec_encode_eq_next_iff.mpr ⟨assignedType_code type, length_le_of_frame? h, rfl⟩

/-- Settles O15: the table decoder evaluated on the seven words. -/
theorem tableDecodesWrittenOutWords : Obligations.TableDecodesWrittenOutWords := by
  unfold Obligations.TableDecodesWrittenOutWords
  decide +kernel

end Sys2Proof.Machine
end

section
/-!
The decoder by the shape of its buffer (spec/42_decode.md R121): the shape determines the verdict, bounds what is consumed
and names what can stand at the front of the buffer.
-/
namespace Sys2Proof.Machine

section Shape
variable {strict : Bool} {buf : List Byte} {v : Verdict}

/-! ### The shape determines the verdict -/

/-- The converse of `examined`. -/
theorem Examined.examine_eq (he : Examined strict buf v) : examine strict buf = v := by
  cases he with
  | needHeader h => exact examine_short strict h
  | noHead h hn => exact examine_noHead strict h hn
  | skipPrefix hg hn h => exact examine_skipPrefix strict hg hn h
  | badLength hL => exact examine_badLength strict _ hL
  | needBody hL hr => exact examine_needBody strict hL hr
  | badCrc hL hp hc => exact (examine_complete strict _ hL hp).trans (if_pos hc)
  | badTail hL hp hc ht =>
    exact (examine_complete strict _ hL hp).trans ((if_neg (not_not_intro hc)).trans (if_pos ht))
  | badType hL hp hc hs ha => rw [examine_complete strict _ hL hp]; simp [hc, hs, ha]
  | frame hL hp hc ha => rw [examine_complete strict _ hL hp]; rcases ha with ha | ha <;> simp [hc, ha]

theorem exec_decode_of_examined {s : State} (he : Examined s.cfg.strictType buf v) :
    exec (.decode buf) s = .next (s.present (.triple v.result)) :=
  exec_decode_of_examine he.examine_eq

theorem exec_decode (buf : List Byte) (s : State) :
    exec (.decode buf) s = .next (s.present (.triple (decode s.cfg.strictType buf))) :=
  rfl

theorem decode_of_examined (he : Examined strict buf v) : decode strict buf = v.result :=
  congrArg Verdict.result he.examine_eq

/-- Only a frame of the encoder is delivered, and it stands at the front of the buffer (R129). -/
theorem Examined.exists_frameBytes_append {type : Byte} {payload : List Byte}
    (he : Examined strict buf (.frame type payload)) :
    payload.length ≤ maxPayload ∧ (strict = false ∨ assignedType type = true) ∧
      ∃ rest : List Byte, buf = frameBytes type payload ++ rest := by
  cases he with
  | @frame _ h l ch cl _ rest hL hp hc ha =>
    have hfield : be16 h l = BitVec.ofNat 16 payload.length := by rw [hp, BitVec.ofNat_toNat, BitVec.setWidth_eq]
    obtain ⟨rfl, rfl⟩ := be16_eq_iff.mp hfield
    obtain ⟨rfl, rfl⟩ := be16_eq_iff.mp hc.symm
    exact ⟨hp.trans_le hL, ha, rest, by simp [frameBytes_eq_cons]⟩

/-! ### The result triple of a verdict -/

theorem Verdict.frameType_eq_none_iff : v.result.frameType = none ↔ v.result.payload = none := by
  cases v <;> simp [Verdict.result]

/-- A frame always costs bytes, so consuming nothing is waiting (R121). -/
theorem Verdict.consumed_eq_zero_iff : v.result.consumed = 0 ↔ v.result.needMore = true := by
  cases v <;> simp [Verdict.result, DecodeResult.needMore]

theorem Verdict.eq_frame_of_frameType {type : Byte} (h : v.result.frameType = some type) :
    ∃ payload : List Byte, v = .frame type payload := by
  cases v with
  | frame type' payload => cases h; exact ⟨payload, rfl⟩
  | _ => cases h

theorem Verdict.eq_frame_of_payload {payload : List Byte} (h : v.result.payload = some payload) :
    ∃ type : Byte, v = .frame type payload := by
  cases v with
  | frame type payload' => cases h; exact ⟨type, rfl⟩
  | _ => cases h

/-! ### Bounds on what is consumed -/

theorem Examined.consumed_le (he : Examined strict buf v) : v.result.consumed ≤ buf.length := by
  cases he with
  | noHead => exact Nat.le_refl _
  | needHeader | needBody => exact Nat.zero_le _
  | badLength | badCrc | badTail | badType => exact Nat.succ_le_succ (Nat.zero_le _)
  | skipPrefix | frame => simp only [Verdict.result, overhead, List.length_append, List.length_cons]; omega

theorem decode_consumed_le (strict : Bool) (buf : List Byte) : (decode strict buf).consumed ≤ buf.length :=
  (examined strict buf).consumed_le

/-- Only a buffer shorter than the longest frame is waited on (R134). -/
theorem Examined.length_lt_of_consumed_eq_zero (he : Examined strict buf v) (h : v.result.consumed = 0) :
    buf.length < maxFrame := by
  cases he with
  | needHeader hlen => exact hlen.trans (by decide)
  | needBody hL hr => simp only [List.length_cons, maxFrame]; omega
  | noHead hlen => exact absurd (hlen.trans_eq h) (by decide)
  | skipPrefix hg => exact absurd (List.length_eq_zero_iff.mp h) hg
  | badLength | badCrc | badTail | badType => cases h
  | frame => simp [Verdict.result] at h

theorem decode_length_lt_of_consumed_eq_zero (h : (decode strict buf).consumed = 0) : buf.length < maxFrame :=
  (examined strict buf).length_lt_of_consumed_eq_zero h

/-- The ways to have no frame (R121): to wait, to drop a headless buffer, to drop what stands before the first head, and
to drop a false head. -/
theorem Examined.of_frameType_eq_none (he : Examined strict buf v) (h : v.result.frameType = none) :
    (v.result.consumed = 0 ∧ (buf.length < 4 ∨ byteAt buf 0 = headByte)) ∨
    (v.result.consumed = buf.length ∧ 4 ≤ buf.length ∧ headByte ∉ buf) ∨
    (1 ≤ v.result.consumed ∧ v.result.consumed < buf.length ∧ headByte ∉ buf.take v.result.consumed ∧
      byteAt buf v.result.consumed = headByte) ∨
    (v.result.consumed = 1 ∧ 4 ≤ buf.length ∧ byteAt buf 0 = headByte) := by
  cases he with
  | needHeader hlen => exact .inl ⟨rfl, .inl hlen⟩
  | needBody => exact .inl ⟨rfl, .inr rfl⟩
  | noHead hlen hn => exact .inr (.inl ⟨rfl, hlen, hn⟩)
  | @skipPrefix g rest hg hn =>
    refine .inr (.inr (.inl ⟨List.length_pos_iff.mpr hg, by simp [Verdict.result], ?_, ?_⟩))
    · rwa [Verdict.result, List.take_left]
    · exact byteAt_append_length_add g (headByte :: rest) 0
  | badLength | badCrc | badTail | badType =>
    exact .inr (.inr (.inr ⟨rfl, by simp only [List.length_cons]; omega, rfl⟩))
  | frame => cases h

end Shape

/-- Settles O18: the triple is the result of the buffer's verdict, and each clause is read off the verdict's shape. -/
theorem decodeCompletesWithBoundedResult : Obligations.DecodeCompletesWithBoundedResult := by
  intro buf s
  have he := examined s.cfg.strictType buf
  refine ⟨decode s.cfg.strictType buf, exec_decode buf s, Verdict.frameType_eq_none_iff, he.consumed_le,
    Verdict.consumed_eq_zero_iff, fun payload hp => ?frame, he.of_frameType_eq_none⟩
  case frame =>
    obtain ⟨type, hv⟩ := Verdict.eq_frame_of_payload hp
    rw [hv] at he
    obtain ⟨hlen, -, rest, rfl⟩ := he.exists_frameBytes_append
    rw [decode, hv]
    refine ⟨rfl, hlen, rfl, rfl, ?_⟩
    have htake : (frameBytes type payload ++ rest).take (7 + payload.length) = frameBytes type payload :=
      List.take_left' (frameBytes_length ..)
    exact (congrArg validFrame htake).trans (validFrame_frameBytes type hlen)

/-- Settles O28: a wait is a buffer of fewer than 15 bytes. -/
theorem decodeProgressOnFullBuffer : Obligations.DecodeProgressOnFullBuffer := by
  intro buf s hlen
  refine ⟨decode s.cfg.strictType buf, exec_decode buf s, Nat.one_le_iff_ne_zero.mpr fun h => ?_⟩
  exact absurd (decode_length_lt_of_consumed_eq_zero h) (Nat.not_lt_of_le hlen)

end Sys2Proof.Machine
end

section
/-!
The decoder's rules one verdict at a time (spec/42_decode.md R123, R129), and what its verdict does not depend on: the type
byte (R124), `STRICT_TYPE` (D5) and the bytes after the candidate (R48).
-/
namespace Sys2Proof.Machine

/-! ### Garbage and good frames -/

/-- Settles O19: the verdicts are `needHeader`, `noHead` and `skipPrefix`. -/
theorem decodeWaitsOrDropsGarbage : Obligations.DecodeWaitsOrDropsGarbage := by
  intro s
  refine ⟨fun buf hlen => ?wait, fun buf hlen hn => ?noHead, fun g rest hg hn hlen => ?skipPrefix⟩
  case wait => exact exec_decode_of_examined (.needHeader hlen)
  case noHead => exact exec_decode_of_examined (.noHead hlen hn)
  case skipPrefix =>
    exact exec_decode_of_examined (.skipPrefix hg hn (by simp only [List.length_append, List.length_cons]; omega))

/-- Settles O24: the verdict is `frame`, or `badType` where `STRICT_TYPE` is true and the type unassigned. -/
theorem decodeDeliversGoodFrame : Obligations.DecodeDeliversGoodFrame := by
  intro s t h l ch cl payload rest hL hp hc
  rw [← be16_toNat] at hL hp hc
  have hcrc : crc16 payload = be16 ch cl := BitVec.eq_of_toNat_eq hc.symm
  have hbuf : [0xAA, t, h, l] ++ payload ++ [ch, cl, 0x55] ++ rest =
      headByte :: t :: h :: l :: (payload ++ ch :: cl :: tailByte :: rest) := by simp
  rw [hbuf]
  refine ⟨fun hty => ?frame, fun hstrict hcmd hdata => ?badType⟩
  case frame =>
    rw [← assignedType_iff] at hty
    exact exec_decode_of_examined (.frame hL hp hcrc hty)
  case badType =>
    have hty : ¬ assignedType t = true := by rw [assignedType_iff]; exact not_or.mpr ⟨hcmd, hdata⟩
    exact exec_decode_of_examined (.badType hL hp hcrc hstrict (Bool.eq_false_iff.mpr hty))

/-! ### What the verdict does not depend on -/

/-- The verdict with another type byte: it shows in a frame only. -/
def Verdict.withType (type : Byte) : Verdict → Verdict
  | .frame _ payload => .frame type payload
  | v => v

theorem Verdict.result_withType (type : Byte) (v : Verdict) :
    (v.withType type).result = ⟨v.result.frameType.map (fun _ => type), v.result.payload, v.result.consumed⟩ := by
  cases v <;> rfl

/-- Before the first head there is a byte that is no head. -/
theorem byteAt_zero_append_ne_headByte {g : List Byte} (rest : List Byte) (hg : g ≠ []) (hn : headByte ∉ g) :
    byteAt (g ++ rest) 0 ≠ headByte := by
  cases g with
  | nil => exact absurd rfl hg
  | cons x xs => exact fun e => hn (e ▸ List.mem_cons_self)

theorem headByte_mem_of_byteAt_zero {buf : List Byte} (h : byteAt buf 0 = headByte) : headByte ∈ buf := by
  cases buf with
  | nil => cases h
  | cons x xs => exact h ▸ List.mem_cons_self

/-- R124: with `STRICT_TYPE` false the byte at offset 1 of a candidate only passes through. -/
theorem Examined.set_type {buf : List Byte} {v : Verdict} (type : Byte) (he : Examined false buf v)
    (hhead : byteAt buf 0 = headByte) : Examined false (buf.set 1 type) (v.withType type) := by
  cases he with
  | needHeader h => exact .needHeader (by rwa [List.length_set])
  | noHead _ hn => exact absurd (headByte_mem_of_byteAt_zero hhead) hn
  | skipPrefix hg hn => exact absurd hhead (byteAt_zero_append_ne_headByte _ hg hn)
  | badLength hL => exact .badLength hL
  | needBody hL hr => exact .needBody hL hr
  | badCrc hL hp hc => exact .badCrc hL hp hc
  | badTail hL hp hc ht => exact .badTail hL hp hc ht
  | badType _ _ _ hs => cases hs
  | frame hL hp hc => exact .frame hL hp hc (.inl rfl)

/-- Settles O25: the verdict on the buffer with the type byte replaced is the verdict with the type replaced. -/
theorem decodeNeverTestsTypeByte : Obligations.DecodeNeverTestsTypeByte := by
  intro s t t' rest r r' hstrict hr hr'
  have hset : examine false (0xAA :: t' :: rest) = (examine false (0xAA :: t :: rest)).withType t' :=
    ((examined false (0xAA :: t :: rest)).set_type t' rfl).examine_eq
  rw [exec_decode_of_examine rfl, hstrict] at hr hr'
  rw [hset, Verdict.result_withType] at hr'
  cases hr
  cases hr'
  exact ⟨rfl, rfl, rfl⟩

/-- The verdict under `STRICT_TYPE` from the one without it (D5). -/
def Verdict.strictly : Verdict → Verdict
  | .frame type payload => if assignedType type then .frame type payload else .badType
  | v => v

theorem Examined.strictly {buf : List Byte} {v : Verdict} (he : Examined false buf v) : Examined true buf v.strictly := by
  cases he with
  | needHeader h => exact .needHeader h
  | noHead h hn => exact .noHead h hn
  | skipPrefix hg hn h => exact .skipPrefix hg hn h
  | badLength hL => exact .badLength hL
  | needBody hL hr => exact .needBody hL hr
  | badCrc hL hp hc => exact .badCrc hL hp hc
  | badTail hL hp hc ht => exact .badTail hL hp hc ht
  | badType _ _ _ hs => cases hs
  | @frame t _ _ _ _ p _ hL hp hc =>
    rw [Verdict.strictly]
    split
    next hty => exact .frame hL hp hc (.inr hty)
    next hty => exact .badType hL hp hc rfl (Bool.eq_false_iff.mpr hty)

/-- Settles O26: only a frame of an unassigned type has another verdict under `STRICT_TYPE`. -/
theorem strictTypeRejectsOnlyUnassignedTypes : Obligations.StrictTypeRejectsOnlyUnassignedTypes := by
  intro buf
  rw [decode, decode, (examined false buf).strictly.examine_eq]
  cases examine false buf with
  | frame type payload =>
    by_cases hty : assignedType type = true
    · simp only [Verdict.strictly, hty, if_true, Verdict.result, (assignedType_iff type).mp hty]
    · simp only [Verdict.strictly, hty, Bool.false_eq_true, if_false, Verdict.result, mt (assignedType_iff type).mpr hty]
  | _ => rfl

/-- R48: a verdict on a candidate other than to wait stays when bytes follow. -/
theorem Examined.append {strict : Bool} {buf : List Byte} {v : Verdict} (more : List Byte) (he : Examined strict buf v)
    (hhead : byteAt buf 0 = headByte) (hw : v.result.consumed ≠ 0) : Examined strict (buf ++ more) v := by
  cases he with
  | needHeader | needBody => exact absurd rfl hw
  | noHead _ hn => exact absurd (headByte_mem_of_byteAt_zero hhead) hn
  | skipPrefix hg hn => exact absurd hhead (byteAt_zero_append_ne_headByte _ hg hn)
  | badLength hL => exact .badLength hL
  | badCrc hL hp hc => simpa using Examined.badCrc hL hp hc
  | badTail hL hp hc ht => simpa using Examined.badTail hL hp hc ht
  | badType hL hp hc hs ha => simpa using Examined.badType hL hp hc hs ha
  | frame hL hp hc ha => simpa using Examined.frame hL hp hc ha

/-- Settles O27: the buffer with more bytes has the same shape, so the same verdict. -/
theorem decodeVerdictIgnoresLaterBytes : Obligations.DecodeVerdictIgnoresLaterBytes := by
  intro s buf more r hhead hw hr
  have he := examined s.cfg.strictType buf
  rw [exec_decode_of_examined he] at hr
  cases hr
  exact exec_decode_of_examined (he.append more hhead fun h => Bool.eq_false_iff.mp hw (Verdict.consumed_eq_zero_iff.mp h))

/-! ### Frames that are not whole, and frames behind other bytes -/

/-- S5: a proper beginning of a valid frame is short of its header or of its body (R126). -/
theorem decode_take_of_validFrame (strict : Bool) {f : List Byte} {k : Nat} (hf : validFrame f = true)
    (hk : k < f.length) : decode strict (f.take k) = ⟨none, none, 0⟩ := by
  obtain ⟨payload, hlen, hfb⟩ := eq_frameBytes_of_validFrame hf
  rw [hfb, frameBytes_length] at hk
  rw [hfb, frameBytes_eq_cons]
  by_cases hk4 : k < 4
  · exact decode_of_examined (.needHeader ((List.length_take_le ..).trans_lt hk4))
  · obtain ⟨i, rfl⟩ := Nat.exists_eq_add_of_le' (Nat.le_of_not_lt hk4)
    have hL := be16_lengthField hlen
    refine decode_of_examined (.needBody (hL.trans_le hlen) ?_)
    rw [hL]
    exact (List.length_take_le ..).trans_lt (by omega)

/-- Settles O29: the decoder waits on it. -/
theorem partialFrameIsWaitedOn : Obligations.PartialFrameIsWaitedOn := by
  intro s f k hf hk
  rw [exec_decode, decode_take_of_validFrame _ hf hk]
  rfl

theorem mem_take_append_cons {α : Type} {a : List α} {x : α} (rest : List α) {n : Nat} (h : a.length < n) :
    x ∈ (a ++ x :: rest).take n := by
  obtain ⟨m, rfl⟩ := Nat.exists_eq_add_of_lt h
  rw [Nat.add_assoc, List.take_length_add_append]
  simp

/-- Settles O33: nothing without a head stands across the frame's head, and a false head is no head of the frame, which
would be delivered. -/
theorem goodFrameIsNeverSkipped : Obligations.GoodFrameIsNeverSkipped := by
  intro s a f b hf hty
  rw [← assignedType_iff] at hty
  refine ⟨decode s.cfg.strictType (a ++ f ++ b), exec_decode .., fun hnone => ?_⟩
  obtain ⟨body, hbody, -⟩ := eq_headByte_cons_of_validFrame hf
  rcases (examined s.cfg.strictType (a ++ f ++ b)).of_frameType_eq_none hnone with
    ⟨h, -⟩ | ⟨-, -, hn⟩ | ⟨-, -, hn, -⟩ | ⟨h, -, -⟩
  case inl => exact h.trans_le (Nat.zero_le _)
  case inr.inl => simp [hbody] at hn
  case inr.inr.inl =>
    refine Nat.le_of_not_lt fun hlt => hn ?_
    rw [hbody, List.append_assoc, List.cons_append] at hlt ⊢
    exact mem_take_append_cons _ hlt
  case inr.inr.inr =>
    cases a with
    | nil =>
      rw [List.nil_append, decode, (examine_validFrame_append b hf hty).1] at hnone
      cases hnone
    | cons => exact h.trans_le (by simp)

end Sys2Proof.Machine
end

section
/-!
`RX.DRAIN` as repeated `RX.STEP` (spec/42_decode.md R132, R133): the loop's equation, an induction over the loop, and what
follows for the buffer it leaves.
-/
namespace Sys2Proof.Machine

/-! ### One `RX.STEP` -/

/-- The stopping rule of R132 on the next `RX.STEP` of a state. -/
def State.stepStops (s : State) : Bool := (decode s.cfg.strictType s.rxbuf).stops

theorem DecodeResult.stops_iff (r : DecodeResult) : r.stops = true ↔ r.frameType ≠ none ∨ r.consumed = 0 := by
  simp [DecodeResult.stops, DecodeResult.gotFrame, Option.ne_none_iff_isSome]

/-- A step that does not end the loop makes the buffer shorter: the loop ends (R133). -/
theorem rxStep_length_lt {s : State} (h : ¬ s.stepStops = true) : s.rxStep.rxbuf.length < s.rxbuf.length := by
  have hpos : (decode s.cfg.strictType s.rxbuf).consumed ≠ 0 := fun h0 => h ((DecodeResult.stops_iff _).mpr (.inr h0))
  have hle := decode_consumed_le s.cfg.strictType s.rxbuf
  rw [State.rxStep_rxbuf, List.length_drop]
  omega

/-! ### The loop -/

theorem drainLoop_of_stops {s : State} (n : Nat) (h : s.stepStops = true) : s.drainLoop n = s.rxStep := by
  cases n with
  | zero => rfl
  | succ n => exact if_pos h

theorem drainLoop_succ_of_not_stops {s : State} (n : Nat) (h : ¬ s.stepStops = true) :
    s.drainLoop (n + 1) = s.rxStep.drainLoop n :=
  if_neg h

/-- The bound of the model is never what ends the loop (log entry 10). -/
theorem drainLoop_eq_drainLoop {m n : Nat} {s : State} (hm : s.rxbuf.length ≤ m) (hn : s.rxbuf.length ≤ n) :
    s.drainLoop m = s.drainLoop n := by
  induction m generalizing n s with
  | zero =>
    have h : s.stepStops = true := by
      by_contra h
      exact Nat.not_lt_zero _ ((rxStep_length_lt h).trans_le hm)
    rw [drainLoop_of_stops 0 h, drainLoop_of_stops n h]
  | succ m ih =>
    by_cases h : s.stepStops = true
    · rw [drainLoop_of_stops _ h, drainLoop_of_stops n h]
    · have hlt := rxStep_length_lt h
      obtain ⟨n, rfl⟩ := Nat.exists_eq_succ_of_ne_zero (Nat.ne_zero_of_lt (hlt.trans_le hn))
      rw [drainLoop_succ_of_not_stops m h, drainLoop_succ_of_not_stops n h]
      exact ih (by omega) (by omega)

theorem exec_rxDrain (s : State) : exec .rxDrain s = .next s.rxDrain := rfl

theorem rxDrain_of_stops {s : State} (h : s.stepStops = true) : s.rxDrain = s.rxStep := drainLoop_of_stops _ h

theorem rxDrain_of_not_stops {s : State} (h : ¬ s.stepStops = true) : s.rxDrain = s.rxStep.rxDrain := by
  have hlt := rxStep_length_lt h
  obtain ⟨n, hn⟩ := Nat.exists_eq_succ_of_ne_zero (Nat.ne_zero_of_lt hlt)
  rw [State.rxDrain, hn, drainLoop_succ_of_not_stops n h, State.rxDrain,
    drainLoop_eq_drainLoop (by omega) (Nat.le_refl _)]

/-- Induction over the loop: the last step, and a step before it. -/
theorem rxDrain_induction {P : State → State → Prop} (stop : ∀ s : State, s.stepStops = true → P s s.rxStep)
    (go : ∀ s t : State, ¬ s.stepStops = true → P s.rxStep t → P s t) (s : State) : P s s.rxDrain := by
  induction hn : s.rxbuf.length using Nat.strong_induction_on generalizing s with
  | _ n ih =>
    by_cases h : s.stepStops = true
    · rw [rxDrain_of_stops h]
      exact stop s h
    · rw [rxDrain_of_not_stops h]
      exact go s _ h (ih _ (hn ▸ rxStep_length_lt h) _ rfl)

/-- Settles O37: one turn of the loop, by the stopping rule. -/
theorem rxDrainFollowsLoop : Obligations.RxDrainFollowsLoop := by
  intro s t r hstep hout
  cases hstep
  cases hout
  refine ⟨fun h => ?stop, fun hnone hpos => ?go⟩
  case stop => rw [exec_rxDrain, rxDrain_of_stops ((DecodeResult.stops_iff _).mpr h)]
  case go =>
    have h : ¬ s.stepStops = true := fun h => ((DecodeResult.stops_iff _).mp h).elim (· hnone) hpos.ne'
    rw [exec_rxDrain, exec_rxDrain, rxDrain_of_not_stops h]

/-- `n` requests for `RX.STEP`, issued before all others, lead from `s` to `t`. -/
def RxStepsTo (n : Nat) (s t : State) : Prop :=
  run n { s with requests := List.replicate n .rxStep ++ s.requests } = .next t

theorem rxStepsTo_one (s : State) : RxStepsTo 1 s s.rxStep := run_succ_of_request rfl rfl

theorem RxStepsTo.succ {n : Nat} {s t : State} (h : RxStepsTo n s.rxStep t) : RxStepsTo (n + 1) s t :=
  (run_succ_of_request rfl rfl).trans h

/-- Each turn of the loop is one request performed, and leaves a shorter buffer for the turns after it. -/
theorem exists_rxStepsTo_rxDrain (s : State) : ∃ n, 1 ≤ n ∧ n ≤ s.rxbuf.length + 1 ∧ RxStepsTo n s s.rxDrain := by
  refine rxDrain_induction (P := fun s t => ∃ n, 1 ≤ n ∧ n ≤ s.rxbuf.length + 1 ∧ RxStepsTo n s t) ?stop ?go s
  case stop => exact fun s _ => ⟨1, Nat.le_refl 1, Nat.le_add_left .., rxStepsTo_one s⟩
  case go =>
    rintro s t h ⟨n, -, hle, hrun⟩
    have hlt := rxStep_length_lt h
    exact ⟨n + 1, Nat.le_add_left .., by omega, hrun.succ⟩

/-- Settles O38: the run of the turns of the loop. -/
theorem rxDrainIsBoundedRunOfRxStep : Obligations.RxDrainIsBoundedRunOfRxStep := by
  intro s
  obtain ⟨n, hpos, hle, hrun⟩ := exists_rxStepsTo_rxDrain s
  exact ⟨n, s.rxDrain, hpos, hle, exec_rxDrain s, hrun⟩

/-! ### What `RX.DRAIN` leaves -/

@[simp] theorem State.rxDrain_crcAcc (s : State) : s.rxDrain.crcAcc = s.crcAcc :=
  rxDrain_induction (P := fun s t => t.crcAcc = s.crcAcc) (fun _ _ => rfl) (fun _ _ _ h => h) s

@[simp] theorem State.rxDrain_cfg (s : State) : s.rxDrain.cfg = s.cfg :=
  rxDrain_induction (P := fun s t => t.cfg = s.cfg) (fun _ _ => rfl) (fun _ _ _ h => h) s

@[simp] theorem State.rxDrain_requests (s : State) : s.rxDrain.requests = s.requests :=
  rxDrain_induction (P := fun s t => t.requests = s.requests) (fun _ _ => rfl) (fun _ _ _ h => h) s

theorem rxStep_rxbuf_suffix (s : State) : s.rxStep.rxbuf <:+ s.rxbuf := List.drop_suffix ..

theorem rxDrain_rxbuf_suffix (s : State) : s.rxDrain.rxbuf <:+ s.rxbuf :=
  rxDrain_induction (P := fun s t => t.rxbuf <:+ s.rxbuf) (fun s _ => rxStep_rxbuf_suffix s)
    (fun s _ _ h => h.trans (rxStep_rxbuf_suffix s)) s

/-- The loop ends with an `RX.STEP` by the stopping rule. -/
theorem exists_rxDrain_eq_rxStep (s : State) : ∃ u : State, u.stepStops = true ∧ s.rxDrain = u.rxStep :=
  rxDrain_induction (P := fun _ t => ∃ u : State, u.stepStops = true ∧ t = u.rxStep) (fun s h => ⟨s, h, rfl⟩)
    (fun _ _ _ h => h) s

/-- Settles O39: the last step waited, and waits again on the buffer it left. -/
theorem drainedBufferHoldsAtMostFourteen : Obligations.DrainedBufferHoldsAtMostFourteen := by
  intro s t r hdrain hout hnone
  obtain ⟨u, hstops, hlast⟩ := exists_rxDrain_eq_rxStep s
  rw [exec_rxDrain, hlast] at hdrain
  cases hdrain
  cases hout
  have hzero : (decode u.cfg.strictType u.rxbuf).consumed = 0 :=
    ((DecodeResult.stops_iff _).mp hstops).resolve_left (· hnone)
  have hwait : u.rxStep = u.present (.triple (decode u.cfg.strictType u.rxbuf)) := by
    rw [State.rxStep, hzero]
    rfl
  rw [hwait]
  exact ⟨hzero, Nat.lt_succ_iff.mp (decode_length_lt_of_consumed_eq_zero hzero), congrArg Host.Outcome.next hwait⟩

section ValidFrameInFront
variable {s : State} {f b : List Byte} (hf : validFrame f = true)
  (hty : s.cfg.strictType = false ∨ assignedType (byteAt f 1) = true) (hbuf : s.rxbuf = f ++ b)
include hf hty hbuf

theorem decode_of_validFrame_append :
    decode s.cfg.strictType s.rxbuf = ⟨some (byteAt f 1), some (slice f 4 (f.length - 3)), f.length⟩ := by
  obtain ⟨hverdict, hlen⟩ := examine_validFrame_append b hf hty
  rw [decode, hbuf, hverdict, Verdict.result, hlen]

theorem rxStep_of_validFrame_append :
    s.rxStep =
      { s with rxbuf := b, output := .triple ⟨some (byteAt f 1), some (slice f 4 (f.length - 3)), f.length⟩ } := by
  rw [State.rxStep, decode_of_validFrame_append hf hty hbuf, State.consume, hbuf, List.drop_left]
  rfl

/-- A valid frame at the front is delivered by the first turn. -/
theorem rxDrain_of_validFrame_append : s.rxDrain = s.rxStep := by
  refine rxDrain_of_stops ?_
  rw [State.stepStops, decode_of_validFrame_append hf hty hbuf]
  rfl

end ValidFrameInFront

/-- Settles O40: at most one turn drops the bytes before the head; the next delivers the frame. -/
theorem drainDeliversEarliestFrame : Obligations.DrainDeliversEarliestFrame := by
  intro s g f b hf hn hty hbuf
  rw [← assignedType_iff] at hty
  rw [exec_rxDrain]
  by_cases hg : g = []
  · subst hg
    rw [rxDrain_of_validFrame_append hf hty hbuf, rxStep_of_validFrame_append hf hty hbuf]
  · obtain ⟨body, hbody, hlen⟩ := eq_headByte_cons_of_validFrame hf
    have hdecode : decode s.cfg.strictType s.rxbuf = ⟨none, none, g.length⟩ := by
      rw [hbuf, hbody, List.append_assoc, List.cons_append]
      exact decode_of_examined (.skipPrefix hg hn (by simp only [List.length_append, List.length_cons]; omega))
    have hgo : ¬ s.stepStops = true := by
      rw [State.stepStops, hdecode, DecodeResult.stops_iff]
      simpa using hg
    have hrest : s.rxStep.rxbuf = f ++ b := by
      rw [State.rxStep_rxbuf, hdecode, hbuf, List.append_assoc, List.drop_left]
    rw [rxDrain_of_not_stops hgo, rxDrain_of_validFrame_append (s := s.rxStep) hf hty hrest,
      rxStep_of_validFrame_append (s := s.rxStep) hf hty hrest]
    rfl

end Sys2Proof.Machine
end

section
/-!
What one instruction can do, once for every later proof: `exec` on a frame kind and on each request, and the inversion of
a completed instruction.
-/
namespace Sys2Proof.Machine

/-! ### `exec`, kind by kind -/

/-- The 18 frame kinds are one: each is the delivery of its type and payload. -/
theorem exec_of_frame? {i : Instr} {type : FrameType} {payload : List Byte} (h : i.frame? = some (type, payload))
    (s : State) : exec i s = .next (s.deliver type payload) := by
  cases i <;> simp only [Instr.frame?, reduceCtorEq, Option.some.injEq, Prod.mk.injEq] at h <;>
    obtain ⟨rfl, rfl⟩ := h <;> rfl

/-- An instruction is a frame kind or one of the ten operations (R74, R76). -/
theorem frame_or_request (i : Instr) :
    (∃ (type : FrameType) (payload : List Byte), i.frame? = some (type, payload)) ∨ ∃ r : Request, i = r.instr := by
  cases i with
  | crc16 data => exact .inr ⟨.crc16 data, rfl⟩
  | crcInit => exact .inr ⟨.crcInit, rfl⟩
  | crcByte b => exact .inr ⟨.crcByte b, rfl⟩
  | crcRead => exact .inr ⟨.crcRead, rfl⟩
  | encode type payload => exact .inr ⟨.encode type payload, rfl⟩
  | decode buf => exact .inr ⟨.decode buf, rfl⟩
  | rxPush v => exact .inr ⟨.rxPush v, rfl⟩
  | rxStep => exact .inr ⟨.rxStep, rfl⟩
  | rxDrain => exact .inr ⟨.rxDrain, rfl⟩
  | reset => exact .inr ⟨.reset, rfl⟩
  | _ => exact .inl ⟨_, _, rfl⟩

theorem exec_rxPush_of_fits {v : List Byte} {s : State} (h : s.cfg.fits (s.rxbuf.length + v.length) = true) :
    exec (.rxPush v) s = .next ((s.append v).present .nothing) :=
  if_pos h

theorem exec_rxPush_of_not_fits {v : List Byte} {s : State} (h : ¬ s.cfg.fits (s.rxbuf.length + v.length) = true) :
    exec (.rxPush v) s = .refused .rxOverflow :=
  if_neg h

/-- The ways an instruction can complete, with the state it leaves. -/
inductive Executed (s : State) : Instr → State → Prop where
  | frame {i : Instr} {type : FrameType} {payload : List Byte} (h : i.frame? = some (type, payload)) :
      Executed s i (s.deliver type payload)
  | crc16 (data : List Byte) : Executed s (.crc16 data) (s.present (.word (crc16 data)))
  | crcInit : Executed s .crcInit ((s.setAcc crcStart).present .nothing)
  | crcByte (b : Byte) : Executed s (.crcByte b) ((s.setAcc (crcUpdate s.crcAcc b)).present .nothing)
  | crcRead : Executed s .crcRead (s.present (.word s.crcAcc))
  | encode {type : Byte} {payload : List Byte} (hty : assignedType type = true) (hlen : payload.length ≤ maxPayload) :
      Executed s (.encode type payload) (s.present (.bytes (frameBytes type payload)))
  | decode (buf : List Byte) : Executed s (.decode buf) (s.present (.triple (decode s.cfg.strictType buf)))
  | rxPush {v : List Byte} (h : s.cfg.fits (s.rxbuf.length + v.length) = true) :
      Executed s (.rxPush v) ((s.append v).present .nothing)
  | rxStep : Executed s .rxStep s.rxStep
  | rxDrain : Executed s .rxDrain s.rxDrain
  | reset : Executed s .reset (s.clear.present .nothing)

/-- The inversion lemma of `exec`. -/
theorem executed {i : Instr} {s t : State} (h : exec i s = .next t) : Executed s i t := by
  obtain ⟨type, payload, hkind⟩ | ⟨r, rfl⟩ := frame_or_request i
  · rw [exec_of_frame? hkind] at h
    cases h
    exact .frame hkind
  cases r with
  | crc16 data => cases h; exact .crc16 data
  | crcInit => cases h; exact .crcInit
  | crcByte b => cases h; exact .crcByte b
  | crcRead => cases h; exact .crcRead
  | encode type payload =>
    obtain ⟨hty, hlen, rfl⟩ := exec_encode_eq_next_iff.mp h
    exact .encode hty hlen
  | decode buf => cases h; exact .decode buf
  | rxPush v =>
    by_cases hfits : s.cfg.fits (s.rxbuf.length + v.length) = true
    · cases (exec_rxPush_of_fits hfits).symm.trans h
      exact .rxPush hfits
    · cases (exec_rxPush_of_not_fits hfits).symm.trans h
  | rxStep => cases h; exact .rxStep
  | rxDrain => cases h; exact .rxDrain
  | reset => cases h; exact .reset

end Sys2Proof.Machine
end

section
/-!
What an instruction does to the receive buffer (spec/20_memory.md R54), and the invariant of spec/10_state.md R32 from it:
at reset, along every step and in every reachable state.
-/
namespace Sys2Proof.Machine

theorem pushedBytes_of_frame? {i : Instr} {type : FrameType} {payload : List Byte}
    (h : i.frame? = some (type, payload)) : pushedBytes i = [] := by
  cases i with
  | rxPush => cases h
  | _ => rfl

theorem Executed.rxbuf_suffix {i : Instr} {s t : State} (he : Executed s i t) (hi : i ≠ .reset) :
    t.rxbuf <:+ s.rxbuf ++ pushedBytes i := by
  have hnone {b : List Byte} (h : b <:+ s.rxbuf) : b <:+ s.rxbuf ++ [] := by rwa [List.append_nil]
  cases he with
  | frame h => rw [pushedBytes_of_frame? h]; exact hnone (List.drop_suffix ..)
  | rxPush => exact List.suffix_refl _
  | rxStep => exact hnone (rxStep_rxbuf_suffix s)
  | rxDrain => exact hnone (rxDrain_rxbuf_suffix s)
  | reset => exact absurd rfl hi
  | crc16 | crcInit | crcByte | crcRead | encode | decode => exact hnone (List.suffix_refl _)

/-- Settles O41: the buffer after each way to complete. -/
theorem streamOrderIsPreserved : Obligations.StreamOrderIsPreserved := by
  intro i s t hi h
  exact (executed h).rxbuf_suffix hi

/-- Only `RX.PUSH` makes the buffer longer, and it tests the capacity (R130). -/
theorem Executed.fits {i : Instr} {s t : State} (he : Executed s i t) (h : s.cfg.fits s.rxbuf.length = true) :
    s.cfg.fits t.rxbuf.length = true := by
  cases he with
  | frame => exact fits_mono (List.drop_suffix ..).length_le h
  | rxPush hfits => rwa [State.present_rxbuf, State.append_rxbuf, List.length_append]
  | rxStep => exact fits_mono (rxStep_rxbuf_suffix s).length_le h
  | rxDrain => exact fits_mono (rxDrain_rxbuf_suffix s).length_le h
  | reset => exact fits_mono (Nat.zero_le _) h
  | crc16 | crcInit | crcByte | crcRead | encode | decode => exact h

theorem Executed.cfg_eq {i : Instr} {s t : State} (he : Executed s i t) : t.cfg = s.cfg := by
  cases he with
  | rxDrain => exact State.rxDrain_cfg s
  | _ => rfl

theorem Executed.requests_eq {i : Instr} {s t : State} (he : Executed s i t) : t.requests = s.requests := by
  cases he with
  | rxDrain => exact State.rxDrain_requests s
  | _ => rfl

/-- A step idles or is one instruction, on the state with the request taken. -/
theorem executed_of_step {s t : State} (h : step s = .next t) :
    t = s ∨ ∃ (r : Request) (rest : List Request), s.requests = r :: rest ∧
      Executed { s with requests := rest } r.instr t := by
  cases hreq : s.requests with
  | nil => rw [step_idle hreq] at h; cases h; exact .inl rfl
  | cons r rest => rw [step_cons hreq] at h; exact .inr ⟨r, rest, rfl, executed h⟩

theorem step_keeps_cfg {s t : State} (h : step s = .next t) : t.cfg = s.cfg := by
  obtain rfl | ⟨r, rest, -, he⟩ := executed_of_step h
  · rfl
  · exact he.cfg_eq

/-- Settles O49: a step idles or is an instruction, which keeps the parameters and the bound on the buffer. -/
theorem stepKeepsInvariant : Obligations.StepKeepsInvariant := by
  rintro s t ⟨hwf, hfits⟩ h
  rw [State.Inv, step_keeps_cfg h]
  refine ⟨hwf, ?_⟩
  obtain rfl | ⟨r, rest, -, he⟩ := executed_of_step h
  · exact hfits
  · exact he.fits hfits

/-- The empty buffer fits whatever capacity R11 allows. -/
theorem reset_inv {c : Config} (h : c.wf = true) : { State.reset with cfg := c }.Inv :=
  ⟨h, fits_of_wf h (Nat.zero_le _)⟩

/-- Settles O48: the default parameters are within R11's bound. -/
theorem initialStateMeetsInvariant : Obligations.InitialStateMeetsInvariant :=
  reset_inv (c := Config.default) rfl

/-- Settles O50: the invariant and the parameters are kept by issuing and by stepping. -/
theorem reachableBufferWithinCapacity : Obligations.ReachableBufferWithinCapacity := by
  intro c t hc hreach
  have hinv : t.cfg = c ∧ t.Inv := by
    induction hreach with
    | here => exact ⟨rfl, reset_inv hc⟩
    | issue t r _ ih => exact ih
    | step t u _ hstep ih =>
      obtain ⟨hcfg, hinv⟩ := ih
      exact ⟨(step_keeps_cfg hstep).trans hcfg, stepKeepsInvariant t u hinv hstep⟩
  obtain ⟨rfl, -, hfits⟩ := hinv
  exact ⟨rfl, (fits_iff _ _).mp hfits⟩

end Sys2Proof.Machine
end

section
/-!
The writers of each register (spec/10_state.md R21, R22), and the instructions that are refused (spec/60_exceptions.md
R187).
-/
namespace Sys2Proof.Machine

theorem Executed.crcAcc_eq_or {i : Instr} {s t : State} (he : Executed s i t) :
    t.crcAcc = s.crcAcc ∨ i = .crcInit ∨ (∃ b : Byte, i = .crcByte b) ∨ i = .reset := by
  cases he with
  | crcInit => exact .inr (.inl rfl)
  | crcByte b => exact .inr (.inr (.inl ⟨b, rfl⟩))
  | reset => exact .inr (.inr (.inr rfl))
  | rxDrain => exact .inl (State.rxDrain_crcAcc s)
  | frame | crc16 | crcRead | encode | decode | rxPush | rxStep => exact .inl rfl

theorem Executed.rxbuf_eq_or {i : Instr} {s t : State} (he : Executed s i t) :
    t.rxbuf = s.rxbuf ∨
      (∃ v : List Byte, i = .rxPush v) ∨ i = .rxStep ∨ i = .rxDrain ∨ i = .reset ∨ i.frame?.isSome = true := by
  cases he with
  | frame h => exact .inr (.inr (.inr (.inr (.inr (by rw [h]; rfl)))))
  | @rxPush v => exact .inr (.inl ⟨v, rfl⟩)
  | rxStep => exact .inr (.inr (.inl rfl))
  | rxDrain => exact .inr (.inr (.inr (.inl rfl)))
  | reset => exact .inr (.inr (.inr (.inr (.inl rfl))))
  | crc16 | crcInit | crcByte | crcRead | encode | decode => exact .inl rfl

/-- Settles O52: an instruction that is none of a register's writers leaves it. -/
theorem registersHaveOnlyNamedWriters : Obligations.RegistersHaveOnlyNamedWriters := by
  intro i s t h
  have he := executed h
  exact ⟨he.crcAcc_eq_or.resolve_left, he.rxbuf_eq_or.resolve_left, he.cfg_eq, he.requests_eq⟩

/-! ### The contract -/

theorem inContract_of_frame? {i : Instr} {type : FrameType} {payload : List Byte} (h : i.frame? = some (type, payload))
    (s : State) : inContract i s = true := by
  cases i with
  | encode | rxPush => cases h
  | _ => rfl

theorem inContract_encode_iff {type : Byte} {payload : List Byte} {s : State} :
    inContract (.encode type payload) s = true ↔ assignedType type = true ∧ payload.length ≤ maxPayload := by
  simp [inContract, Instr.wf]

theorem inContract_rxPush (v : List Byte) (s : State) :
    inContract (.rxPush v) s = s.cfg.fits (s.rxbuf.length + v.length) :=
  Bool.true_and _

/-- An instruction that completes was inside its contract. -/
theorem Executed.inContract {i : Instr} {s t : State} (he : Executed s i t) : inContract i s = true := by
  cases he with
  | frame h => exact inContract_of_frame? h s
  | encode hty hlen => exact inContract_encode_iff.mpr ⟨hty, hlen⟩
  | rxPush h => rwa [inContract_rxPush]
  | _ => rfl

/-- Outside its contract, and refused by one of the three names (R187). -/
def RefusedOutsideContract (i : Instr) (s : State) : Prop :=
  inContract i s = false ∧
    (exec i s = .refused .badType ∨ exec i s = .refused .payloadTooLong ∨ exec i s = .refused .rxOverflow)

theorem encode_completes_or_refused (type : Byte) (payload : List Byte) (s : State) :
    (∃ t : State, exec (.encode type payload) s = .next t) ∨ RefusedOutsideContract (.encode type payload) s := by
  have hout (h : ¬ (assignedType type = true ∧ payload.length ≤ maxPayload)) :
      inContract (.encode type payload) s = false := Bool.eq_false_iff.mpr (mt inContract_encode_iff.mp h)
  by_cases hty : assignedType type = true
  · by_cases hlen : payload.length ≤ maxPayload
    · exact .inl ⟨_, exec_encode_eq_next_iff.mpr ⟨hty, hlen, rfl⟩⟩
    · exact .inr ⟨hout (hlen ·.2), .inr (.inl
        (exec_encode_of_error (encodeFrame_of_maxPayload_lt hty (Nat.lt_of_not_le hlen)) s))⟩
  · exact .inr ⟨hout (hty ·.1), .inl (exec_encode_of_error (encodeFrame_of_not_assignedType payload hty) s)⟩

theorem rxPush_completes_or_refused (v : List Byte) (s : State) :
    (∃ t : State, exec (.rxPush v) s = .next t) ∨ RefusedOutsideContract (.rxPush v) s := by
  by_cases hfits : s.cfg.fits (s.rxbuf.length + v.length) = true
  · exact .inl ⟨_, exec_rxPush_of_fits hfits⟩
  · exact .inr ⟨(inContract_rxPush v s).trans (Bool.eq_false_iff.mpr hfits), .inr (.inr (exec_rxPush_of_not_fits hfits))⟩

/-- No instruction faults, and none is refused by another name or inside its contract (R180, R193). -/
theorem exec_completes_or_refused (i : Instr) (s : State) :
    (∃ t : State, exec i s = .next t) ∨ RefusedOutsideContract i s := by
  obtain ⟨type, payload, hkind⟩ | ⟨r, rfl⟩ := frame_or_request i
  · exact .inl ⟨_, exec_of_frame? hkind s⟩
  cases r with
  | encode type payload => exact encode_completes_or_refused type payload s
  | rxPush v => exact rxPush_completes_or_refused v s
  | _ => exact .inl ⟨_, rfl⟩

/-- Settles O51: an instruction completes, and then was inside its contract, or is refused outside it. -/
theorem refusedExactlyOutsideContract : Obligations.RefusedExactlyOutsideContract := by
  intro i s
  obtain ⟨t, ht⟩ | ⟨hout, hrefused⟩ := exec_completes_or_refused i s
  · have hin := (executed ht).inContract
    simp [hin, ht]
  · refine ⟨⟨fun hin => ?_, fun ⟨t, ht⟩ => (executed ht).inContract⟩, fun _ => hrefused, fun _ => hout⟩
    exact absurd (hin.symm.trans hout) (by decide)

end Sys2Proof.Machine
end

section
/-!
Isolation (spec/10_state.md R20, R21, R22): a change of a register that an instruction does not read commutes with it. Over
whole runs (spec/70_reset_and_hazards.md R231), the accumulator depends on its writers alone.
-/
namespace Sys2Proof.Machine

/-! ### One instruction -/

@[simp] theorem State.present_inj {s : State} {o o' : Output} : s.present o = s.present o' ↔ o = o' :=
  ⟨congrArg State.output, congrArg s.present⟩

/-- `ENCODE` reads nothing of the state: it commutes with every change but of the output. -/
theorem exec_encode_map {f : State → State} (hf : ∀ (s : State) (o : Output), f (s.present o) = (f s).present o)
    (type : Byte) (payload : List Byte) (s : State) :
    exec (.encode type payload) (f s) = mapNext f (exec (.encode type payload) s) := by
  cases h : encodeFrame type payload with
  | ok b =>
    obtain ⟨hty, hlen, -⟩ := encodeFrame_eq_ok_iff.mp h
    rw [exec_encode_eq_next_iff.mpr ⟨hty, hlen, rfl⟩, exec_encode_eq_next_iff.mpr ⟨hty, hlen, rfl⟩, mapNext, hf]
  | error r => rw [exec_encode_of_error h, exec_encode_of_error h, mapNext]

/-- Settles O53: each of the three only presents a value that the state does not enter but by its parameters. -/
theorem pureOperationsIgnoreRegisters : Obligations.PureOperationsIgnoreRegisters := by
  intro i s s' o hcfg hi
  change (exec i s = .next (s.present o) ↔ exec i s' = .next (s'.present o)) ∧ _
  rcases hi with ⟨data, rfl⟩ | ⟨type, payload, rfl⟩ | ⟨buf, rfl⟩
  · have hexec (s : State) : exec (.crc16 data) s = .next (s.present (.word (crc16 data))) := rfl
    refine ⟨by simp [hexec], fun t h => ?_⟩
    cases h; rfl
  · refine ⟨by simp [exec_encode_eq_next_iff], fun t h => ?_⟩
    obtain ⟨-, -, rfl⟩ := exec_encode_eq_next_iff.mp h
    rfl
  · refine ⟨by simp [exec_decode, hcfg], fun t h => ?_⟩
    cases h; rfl

/-- Settles O55: `ENCODE` by `exec_encode_map`; the others read and leave the buffer by definition. -/
theorem bufferIsIsolatedFromChecksum : Obligations.BufferIsIsolatedFromChecksum := by
  intro i s buf hi
  rcases hi with rfl | ⟨b, rfl⟩ | rfl | ⟨d, rfl⟩ | ⟨type, payload, rfl⟩ | ⟨b, rfl⟩
  · rfl
  · rfl
  · rfl
  · rfl
  · exact exec_encode_map (f := fun t => { t with rxbuf := buf }) (fun _ _ => rfl) type payload s
  · rfl

/-- The loop of `RX.DRAIN` reads the buffer and the parameters only. -/
theorem rxDrain_setAcc (s : State) (a : U16) : (s.setAcc a).rxDrain = s.rxDrain.setAcc a := by
  refine rxDrain_induction (P := fun s t => (s.setAcc a).rxDrain = t.setAcc a) (fun s h => ?stop) (fun s t h ih => ?go) s
  case stop => exact rxDrain_of_stops (s := s.setAcc a) h
  case go => exact (rxDrain_of_not_stops (s := s.setAcc a) h).trans ih

theorem exec_rxPush_setAcc (v : List Byte) (s : State) (a : U16) :
    exec (.rxPush v) (s.setAcc a) = mapNext (·.setAcc a) (exec (.rxPush v) s) := by
  by_cases hfits : s.cfg.fits (s.rxbuf.length + v.length) = true
  · rw [exec_rxPush_of_fits hfits, exec_rxPush_of_fits (s := s.setAcc a) hfits]
    rfl
  · rw [exec_rxPush_of_not_fits hfits, exec_rxPush_of_not_fits (s := s.setAcc a) hfits]
    rfl

/-- Settles O54: a case per instruction that is none of the four. -/
theorem accumulatorIsIsolated : Obligations.AccumulatorIsIsolated := by
  intro i s a hinit hbyte hread hreset
  change exec i (s.setAcc a) = mapNext (·.setAcc a) (exec i s)
  obtain ⟨type, payload, hkind⟩ | ⟨r, rfl⟩ := frame_or_request i
  · rw [exec_of_frame? hkind, exec_of_frame? hkind]
    rfl
  cases r with
  | crcInit => exact absurd rfl hinit
  | crcByte b => exact absurd rfl (hbyte b)
  | crcRead => exact absurd rfl hread
  | reset => exact absurd rfl hreset
  | encode type payload => exact exec_encode_map (f := (·.setAcc a)) (fun _ _ => rfl) type payload s
  | rxPush v => exact exec_rxPush_setAcc v s a
  | rxDrain => exact congrArg Host.Outcome.next (rxDrain_setAcc s a)
  | crc16 | decode | rxStep => rfl

/-! ### Whole runs -/

theorem run_succ_of_refused {s : State} {n : Nat} {r : Refusal} (h : step s = .refused r) :
    run (n + 1) s = .refused r := by
  have h' : Sys2Proof.core.step s = .refused r := h
  simp only [run, Host.Core.run, h']
  rfl

/-- A run that completes performs its first request and goes on from there. -/
theorem exists_of_run_succ {s t : State} {n : Nat} {r : Request} {rest : List Request} (hreq : s.requests = r :: rest)
    (h : run (n + 1) s = .next t) :
    ∃ s' : State, exec r.instr { s with requests := rest } = .next s' ∧ run n s' = .next t := by
  cases hexec : exec r.instr { s with requests := rest } with
  | next s' => exact ⟨s', rfl, (run_succ_of_request hreq hexec).symm.trans h⟩
  | fault f => cases f
  | refused e => cases (run_succ_of_refused ((step_cons hreq).trans hexec)).symm.trans h

theorem crcAcc_eq_of_not_writesAcc {r : Request} {s t : State} (hr : ¬ r.writesAcc = true)
    (h : exec r.instr s = .next t) : t.crcAcc = s.crcAcc := by
  refine (executed h).crcAcc_eq_or.resolve_right fun hwriter => hr ?_
  cases r with
  | crcInit | crcByte | reset => rfl
  | crc16 | crcRead | encode | decode | rxPush | rxStep | rxDrain =>
    obtain h | ⟨_, h⟩ | h := hwriter <;> cases h

/-- A writer of the accumulator completes in every state, with a value that depends on the accumulator only. -/
theorem exec_of_writesAcc {r : Request} {s t u : State} (hr : r.writesAcc = true) (hacc : u.crcAcc = s.crcAcc)
    (h : exec r.instr s = .next t) :
    ∃ v : State, exec r.instr u = .next v ∧ v.requests = u.requests ∧ v.crcAcc = t.crcAcc := by
  cases r with
  | crcInit | reset => cases h; exact ⟨_, rfl, rfl, rfl⟩
  | crcByte b => cases h; exact ⟨_, rfl, rfl, congrArg (crcUpdate · b) hacc⟩
  | crc16 | crcRead | encode | decode | rxPush | rxStep | rxDrain => cases hr

/-- Two runs from equal accumulators, the second with the writers' requests alone. -/
theorem exists_run_filter_writesAcc {requests : List Request} {s t u : State} (hs : s.requests = requests)
    (hu : u.requests = requests.filter Request.writesAcc) (hacc : u.crcAcc = s.crcAcc)
    (hrun : run requests.length s = .next t) :
    ∃ v : State, run (requests.filter Request.writesAcc).length u = .next v ∧ v.crcAcc = t.crcAcc := by
  induction requests generalizing s u with
  | nil => cases hrun; exact ⟨u, rfl, hacc⟩
  | cons r rest ih =>
    obtain ⟨s', hexec, hrest⟩ := exists_of_run_succ hs hrun
    have hs' : s'.requests = rest := (executed hexec).requests_eq
    by_cases hr : r.writesAcc = true
    · rw [List.filter_cons_of_pos hr] at hu ⊢
      obtain ⟨v, hv, hvreq, hvacc⟩ :=
        exec_of_writesAcc (s := { s with requests := rest })
          (u := { u with requests := rest.filter Request.writesAcc }) hr hacc hexec
      rw [List.length_cons, run_succ_of_request hu hv]
      exact ih hs' hvreq hvacc hrest
    · rw [List.filter_cons_of_neg hr] at hu ⊢
      exact ih hs' hu (hacc.trans (crcAcc_eq_of_not_writesAcc hr hexec).symm) hrest

/-- Settles O56: the two runs start with the same accumulator. -/
theorem interleavingKeepsAccumulator : Obligations.InterleavingKeepsAccumulator := by
  intro s t requests hrun
  exact exists_run_filter_writesAcc (s := { s with requests := requests }) rfl rfl rfl hrun

end Sys2Proof.Machine
end

section
/-!
`RX.STEP` and the table decoder (spec/30_encoding.md R74): a frame kind at the front of the receive buffer is what the block
delivers, and the other way round. The same for a frame that arrives in pieces (spec/95_test_vectors.md, program P3).
-/
namespace Sys2Proof.Machine

/-! ### A frame at the front of the buffer -/

/-- R129 and R131 for a frame of an assigned type: its delivery, under either value of `STRICT_TYPE`. -/
theorem rxStep_of_frameBytes_append {s : State} {type : FrameType} {payload rest : List Byte}
    (hlen : payload.length ≤ maxPayload) (hbuf : s.rxbuf = frameBytes type.code payload ++ rest) :
    s.rxStep = s.deliver type payload := by
  have hdecode : decode s.cfg.strictType s.rxbuf = ⟨some type.code, some payload, overhead + payload.length⟩ := by
    rw [decode, hbuf, examine_frameBytes_append rest hlen (.inr (assignedType_code type))]
    rfl
  rw [State.rxStep, hdecode, State.deliver]

/-- The converse: the triple of a delivered frame tells that the frame stood at the front (R129). -/
theorem exists_frameBytes_append_of_decode {strict : Bool} {buf : List Byte} {type : Byte} {payload : List Byte}
    {n : Nat} (h : decode strict buf = ⟨some type, some payload, n⟩) :
    payload.length ≤ maxPayload ∧ ∃ rest : List Byte, buf = frameBytes type payload ++ rest := by
  obtain ⟨payload', hv⟩ := Verdict.eq_frame_of_frameType (congrArg DecodeResult.frameType h)
  have he := examined strict buf
  rw [hv] at he
  rw [decode, hv] at h
  cases h
  obtain ⟨hlen, -, hbuf⟩ := he.exists_frameBytes_append
  exact ⟨hlen, hbuf⟩

/-- Settles O46: the decoded frame stands at the front of the buffer, and both steps are its delivery. -/
theorem stepRunsDecodedFrame : Obligations.StepRunsDecodedFrame := by
  intro s requests i rest hreq hdecode
  obtain ⟨type, payload, hkind, hbuf⟩ := decodeFrame_eq_ok_iff.mp hdecode
  have hstep : step s = .next (State.deliver { s with requests := requests } type payload) := by
    rw [step_cons hreq, Request.instr, exec_rxStep,
      rxStep_of_frameBytes_append (s := { s with requests := requests }) (length_le_of_frame? hkind) hbuf]
  refine ⟨hstep.trans (exec_of_frame? hkind _).symm, _, hstep, ?_⟩
  rw [State.deliver_rxbuf, hbuf]
  exact List.drop_left' (frameBytes_length ..)

/-- Settles O47: both sides say that a frame of the type and payload stands at the front of the buffer. -/
theorem rxStepDeliversExactlyTableFrames : Obligations.RxStepDeliversExactlyTableFrames := by
  intro s u type payload
  constructor
  · rintro ⟨hstep, hout⟩
    cases hstep
    rw [State.rxStep_output, Output.triple.injEq] at hout
    obtain ⟨hlen, rest, hbuf⟩ := exists_frameBytes_append_of_decode hout
    obtain ⟨i, hi⟩ := Option.isSome_iff_exists.mp (ofFrame_isSome_of_length_le type hlen)
    have hkind := frame?_of_ofFrame hi
    refine ⟨i, rest, decodeFrame_eq_ok_iff.mpr ⟨type, payload, hkind, hbuf⟩, hkind, ?_⟩
    rw [exec_of_frame? hkind, rxStep_of_frameBytes_append hlen hbuf]
  · rintro ⟨i, rest, hdecode, hkind, hexec⟩
    obtain ⟨type', payload', hkind', hbuf⟩ := decodeFrame_eq_ok_iff.mp hdecode
    cases hkind.symm.trans hkind'
    cases (exec_of_frame? hkind s).symm.trans hexec
    rw [exec_rxStep, rxStep_of_frameBytes_append (length_le_of_frame? hkind) hbuf]
    exact ⟨rfl, State.deliver_output ..⟩

/-! ### A frame in pieces -/

theorem length_le_of_validFrame {f : List Byte} (hf : validFrame f = true) : f.length ≤ maxFrame := by
  obtain ⟨payload, hlen, hfb⟩ := eq_frameBytes_of_validFrame hf
  rw [hfb, frameBytes_length]
  simp only [maxPayload, maxFrame] at *
  omega

/-- The next state of `RX.STEP` when a proper beginning of a valid frame is buffered. -/
theorem rxStep_of_partial {s : State} {f tail : List Byte} (hf : validFrame f = true) (hsplit : s.rxbuf ++ tail = f)
    (htail : tail ≠ []) : s.rxStep = s.present (.triple ⟨none, none, 0⟩) := by
  have hdecode : decode s.cfg.strictType s.rxbuf = ⟨none, none, 0⟩ := by
    have hk : s.rxbuf.length < f.length := by
      rw [← hsplit, List.length_append]
      exact Nat.lt_add_of_pos_right (List.length_pos_iff.mpr htail)
    have := decode_take_of_validFrame s.cfg.strictType hf hk
    rwa [← hsplit, List.take_left] at this
  rw [State.rxStep, hdecode]
  rfl

/-- The state between a piece pushed and the `RX.STEP` behind it. -/
def State.afterPush (s : State) (p : List Byte) (requests : List Request) : State :=
  { s with rxbuf := s.rxbuf ++ p, requests := requests, output := .nothing }

/-- One piece pushed and one `RX.STEP`, as two steps of the machine. -/
theorem run_push_step {s : State} {p : List Byte} {tail : List Request} (n : Nat)
    (hreq : s.requests = .rxPush p :: .rxStep :: tail) (hfits : s.cfg.fits (s.rxbuf.length + p.length) = true) :
    run (n + 2) s = run n (s.afterPush p tail).rxStep := by
  rw [run_succ_of_request hreq (exec_rxPush_of_fits hfits)]
  exact run_succ_of_request rfl rfl

/-- The pieces still to come, behind the bytes already buffered: the last piece completes the frame, and each piece before
it leaves a proper beginning. -/
theorem run_pieces {f : List Byte} {rest : List Request} (hf : validFrame f = true) (pieces : List (List Byte)) {s : State}
    (hwf : s.cfg.wf = true) (hty : s.cfg.strictType = false ∨ assignedType (byteAt f 1) = true)
    (hsplit : s.rxbuf ++ pieces.flatten = f) (hne : ∀ p ∈ pieces, p ≠ []) (hpieces : pieces ≠ [])
    (hreq : s.requests = pieces.flatMap (fun p => [.rxPush p, .rxStep]) ++ rest) :
    run (2 * pieces.length) s = .next { s with
      rxbuf := [], requests := rest,
      output := .triple ⟨some (byteAt f 1), some (slice f 4 (f.length - 3)), f.length⟩ } := by
  induction pieces generalizing s with
  | nil => exact absurd rfl hpieces
  | cons p ps ih =>
    rw [List.flatten_cons, ← List.append_assoc] at hsplit
    have hfits : s.cfg.fits (s.rxbuf.length + p.length) = true := by
      have hle := length_le_of_validFrame hf
      rw [← hsplit, List.length_append, List.length_append] at hle
      exact fits_of_wf hwf ((Nat.le_add_right ..).trans hle)
    rw [List.length_cons, Nat.mul_succ, run_push_step _ hreq hfits]
    by_cases hps : ps = []
    · subst hps
      have hwhole : s.rxbuf ++ p = f ++ [] := by simpa using hsplit
      rw [rxStep_of_validFrame_append (s := s.afterPush p _) hf hty hwhole]
      rfl
    · have hrest : ps.flatten ≠ [] := by
        obtain ⟨q, hq⟩ := List.exists_mem_of_ne_nil ps hps
        exact fun h => hne q (List.mem_cons_of_mem _ hq) (List.flatten_eq_nil_iff.mp h q hq)
      rw [rxStep_of_partial hf hsplit hrest]
      exact ih hwf hty hsplit (fun q hq => hne q (List.mem_cons_of_mem _ hq)) hps rfl

/-- Settles O42: all pieces are still to come, and there is one at least. -/
theorem frameInPiecesIsDelivered : Obligations.FrameInPiecesIsDelivered := by
  intro s f pieces rest hbuf hwf hty hf hflat hne hreq
  rw [← assignedType_iff] at hty
  have hpieces : pieces ≠ [] := by
    rintro rfl
    cases hflat
    cases hf
  rw [run_pieces hf pieces hwf hty (by rw [hbuf, List.nil_append, hflat]) hne hpieces hreq, hbuf]

end Sys2Proof.Machine
end

section
/-!
The checksum as an algebraic function (spec/40_crc16.md R95, R96, R97): the bit step is a bijection and additive over XOR,
and the byte-serial run accumulates the pure function.
-/
namespace Sys2Proof.Machine

/-! ### The bit step is a bijection -/

theorem crcBit_surjective : Function.Surjective crcBit :=
  Finite.surjective_of_injective crcBit_injective

/-- A byte has no bits from 8 on. -/
theorem getLsbD_xor_zext16 (a : U16) (b : Byte) {k : Nat} (hk : 8 ≤ k) : (a ^^^ zext16 b).getLsbD k = a.getLsbD k := by
  simp [zext16, BitVec.getLsbD_setWidth, BitVec.getLsbD_of_ge b k hk]

/-- Settles O5: injective, so surjective on the finite type; the bit shifted out comes back at the top. -/
theorem crcBitStepIsBijective : Obligations.CrcBitStepIsBijective :=
  ⟨fun _ _ e => crcBit_injective e, crcBit_surjective, getLsbD_crcBit_fifteen, fun a b _ hk => getLsbD_xor_zext16 a b hk⟩

/-! ### The checksum is affine over XOR -/

theorem crcBit_eq_xor_ite (acc : U16) : crcBit acc = (acc >>> 1) ^^^ (if acc.getLsbD 0 then crcPoly else 0#16) := by
  cases h : acc.getLsbD 0 with
  | false => simp [crcBit_of_not_lsb h]
  | true => simp [crcBit_of_lsb h]

/-- The polynomial is XORed in on the XOR of the two bits shifted out: in both places at once it cancels. -/
theorem ite_xor_crcPoly (p q : Bool) :
    (if p ^^ q then crcPoly else 0#16) = (if p then crcPoly else 0#16) ^^^ (if q then crcPoly else 0#16) := by
  cases p <;> cases q <;> rfl

theorem crcBit_xor (a b : U16) : crcBit (a ^^^ b) = crcBit a ^^^ crcBit b := by
  rw [crcBit_eq_xor_ite, crcBit_eq_xor_ite a, crcBit_eq_xor_ite b, BitVec.getLsbD_xor, ite_xor_crcPoly,
    BitVec.ushiftRight_xor_distrib]
  ac_rfl

theorem crcBits_xor (n : Nat) (a b : U16) : crcBits n (a ^^^ b) = crcBits n a ^^^ crcBits n b := by
  induction n generalizing a b with
  | zero => rfl
  | succ n ih => rw [crcBits_succ, crcBit_xor, ih, crcBits_succ, crcBits_succ]

theorem zext16_xor (a b : Byte) : zext16 (a ^^^ b) = zext16 a ^^^ zext16 b := BitVec.setWidth_xor

theorem crcUpdate_xor (a b : U16) (x y : Byte) : crcUpdate (a ^^^ b) (x ^^^ y) = crcUpdate a x ^^^ crcUpdate b y := by
  rw [crcUpdate, crcUpdate, crcUpdate, ← crcBits_xor, zext16_xor]
  ac_rfl

@[simp] theorem crcFrom_cons (acc : U16) (x : Byte) (data : List Byte) :
    crcFrom acc (x :: data) = crcFrom (crcUpdate acc x) data := rfl

theorem crcFrom_xor {a b : List Byte} (h : a.length = b.length) (u v : U16) :
    crcFrom (u ^^^ v) (List.zipWith (· ^^^ ·) a b) = crcFrom u a ^^^ crcFrom v b := by
  induction a generalizing b u v with
  | nil => cases b with
    | nil => rfl
    | cons => cases h
  | cons x xs ih => cases b with
    | nil => cases h
    | cons y ys =>
      rw [List.zipWith_cons_cons, crcFrom_cons, crcFrom_cons, crcFrom_cons, crcUpdate_xor]
      exact ih (Nat.succ.inj h) _ _

/-- Settles O6: three start values of `0xFFFF` XOR to one, and `crcFrom` is additive in start value and data. -/
theorem crc16IsAffineOverXor : Obligations.Crc16IsAffineOverXor := by
  intro a b c hab hbc
  have hlen : (List.zipWith (· ^^^ ·) a b).length = c.length := by simp [hab, hbc]
  have hstart : crcStart ^^^ crcStart ^^^ crcStart = crcStart := by decide
  rw [crc16, crc16, crc16, crc16, ← crcFrom_xor hab, ← crcFrom_xor hlen, hstart]

/-- Settles O7: the flipped byte is another byte, and the checksum is injective in each byte. -/
theorem crc16DetectsOneFlippedBit : Obligations.Crc16DetectsOneFlippedBit :=
  fun _ _ _ hj hk => crc16_flipBit_ne hj hk

/-! ### The byte-serial form -/

/-- One `CRC.BYTE` per byte and `CRC.READ`: the accumulator runs over the bytes and is presented (R93, R94). -/
theorem run_crcBytes_crcRead (d : List Byte) {s : State} {rest : List Request}
    (hreq : s.requests = d.map .crcByte ++ [.crcRead] ++ rest) :
    run (d.length + 1) s =
      .next { s with crcAcc := crcFrom s.crcAcc d, requests := rest, output := .word (crcFrom s.crcAcc d) } := by
  induction d generalizing s with
  | nil => exact run_succ_of_request hreq rfl
  | cons b bs ih =>
    rw [List.length_cons, run_succ_of_request hreq rfl]
    exact ih rfl

theorem crc16_append (d e : List Byte) : crc16 (d ++ e) = crcFrom (crc16 d) e := List.foldl_append

/-- Settles O4: `CRC.INIT` sets the start value, and the bytes run from there. -/
theorem serialCrcEqualsPureCrc : Obligations.SerialCrcEqualsPureCrc := by
  refine ⟨fun d s rest hreq => ?fromInit, fun d e s rest hacc hreq => ?goOn⟩
  case fromInit =>
    rw [run_succ_of_request hreq rfl]
    exact run_crcBytes_crcRead d rfl
  case goOn => rw [run_crcBytes_crcRead e hreq, crc16_append, hacc]

/-! ### The checksum unit's operations -/

/-- Settles O1: the last byte is the last update. -/
theorem crc16CompletesWithR90Value : Obligations.Crc16CompletesWithR90Value :=
  ⟨fun _ _ => rfl, rfl, fun data b => crc16_append data [b], by decide⟩

/-- Settles O3: the three meanings of Machine/CrcUnit.lean. -/
theorem crcRegisterOperationsComplete : Obligations.CrcRegisterOperationsComplete :=
  fun _ => ⟨rfl, fun _ => rfl, rfl⟩

end Sys2Proof.Machine
end

section
/-!
The operations one by one: what `ENCODE` presents (spec/41_encode.md R113), the frame kinds' deliveries (R129, R131), the
receive buffer's operations (R130, R131), `RESET` (R210) and the step itself (R51, R231).
-/
namespace Sys2Proof.Machine

/-- Settles O9: `ENCODE` completes only inside its contract, with `frameBytes`, and those are the well-typed frames. -/
theorem encodeResultIsWellTypedFrame : Obligations.EncodeResultIsWellTypedFrame := by
  intro type payload s t f hexec hout
  obtain ⟨hty, hlen, rfl⟩ := exec_encode_eq_next_iff.mp hexec
  obtain rfl : frameBytes type payload = f := by simpa using hout
  exact ⟨frameBytes_length .., wellTypedFrame_iff.mpr ⟨type, payload, hty, hlen, rfl⟩⟩

/-- Settles O16: each kind is the delivery of its type and payload. -/
theorem cmdFrameKindsComplete : Obligations.CmdFrameKindsComplete := by
  intro s p0 p1 p2 p3 p4 p5 p6 p7
  refine ⟨?_, ?_, ?_, ?_, ?_, ?_, ?_, ?_, ?_⟩ <;> exact (exec_of_frame? (by rfl) s).trans rfl

/-- Settles O17: each kind is the delivery of its type and payload. -/
theorem dataFrameKindsComplete : Obligations.DataFrameKindsComplete := by
  intro s p0 p1 p2 p3 p4 p5 p6 p7
  refine ⟨?_, ?_, ?_, ?_, ?_, ?_, ?_, ?_, ?_⟩ <;> exact (exec_of_frame? (by rfl) s).trans rfl

/-- Settles O34: the two cases of the capacity test. -/
theorem rxPushAppendsOrRefuses : Obligations.RxPushAppendsOrRefuses := by
  intro v s
  refine ⟨fun hroom => exec_rxPush_of_fits ((fits_iff _ _).mpr hroom), fun cap hcap hover => ?_⟩
  exact exec_rxPush_of_not_fits fun hfits => Nat.not_lt_of_le ((fits_iff _ _).mp hfits cap hcap) hover

/-- Settles O35: the triple is that of `DECODE` on the buffer. -/
theorem rxStepIsDecodeThenDrop : Obligations.RxStepIsDecodeThenDrop :=
  fun s => ⟨decode s.cfg.strictType s.rxbuf, exec_decode s.rxbuf s, exec_rxStep s⟩

/-- Settles O43: both fields by definition. -/
theorem initialRegisterValues : Obligations.InitialRegisterValues := ⟨rfl, rfl⟩

/-- Settles O44: the meaning of `RESET`. -/
theorem resetOperationCompletes : Obligations.ResetOperationCompletes := fun _ => rfl

/-- Settles O45: a case per state of the queue. -/
theorem stepPerformsOldestRequest : Obligations.StepPerformsOldestRequest :=
  fun _ => ⟨step_idle, fun _ _ => step_cons⟩

end Sys2Proof.Machine
end
